-- ==== Sys2Proof/Word.lean ====
section
/-! DEFINITION. The bit-vector types of PNGCRC32-CS (00_scope R5, R7): the byte path, the command word, the registers. -/

namespace Sys2Proof

/-- One byte of the byte path (`DATA_W` = 8, R5). -/
abbrev Byte := BitVec 8

/-- One command word on the command port (`CMD_W` = 16, R5, R60). -/
abbrev CmdWord := BitVec 16

/-- One 32-bit register, length, type code or checksum (`CRC_W`, `LEN_W` = 32, R5). -/
abbrev Word := BitVec 32

end Sys2Proof
end

