-- ==== Sys2Proof/Config.lean ====
section
/-! DEFINITION. The fixed parameters of 00_scope R5. The spec leaves no value free (R11 item 6, 93 part 1), so nothing
here is opaque; the open parameters of R6 (`T_CMD`, `OUT_DEPTH`, `USE_TABLE`) are used by no rule and by no definition.
The values the source document does not state are the spec's (DEDUCED, log entry 14). -/

namespace Sys2Proof.Config

/-- `POLY`, the reflected polynomial constant (R5, R90). -/
def poly : Word := 0xEDB88320#32

/-- `INIT`, the preset of the CRC register (R5, R93). -/
def init : Word := 0xFFFFFFFF#32

/-- `XOROUT`, the final XOR (R5, R94). -/
def xorOut : Word := 0xFFFFFFFF#32

/-- `MAX_LEN`, the largest data length, 2^32 - 1 (R5, R22). -/
def maxLen : Nat := 4294967295

/-- `TYPE_LEN`, the bytes of a type code (R5). -/
def typeLen : Nat := 4

/-- `OVERHEAD`, the bytes of a serialized chunk that are not data (R5). -/
def overhead : Nat := 12

end Sys2Proof.Config
end

