-- ==== Sys2Proof/Syntax.lean ====
section
/-! DEFINITION. The syntax: the nine commands of 30_encoding R62, the word format C16 of R60, the two kinds of illegal
word of R64, and the pseudo-instructions of R67. -/

namespace Sys2Proof

/-- The nine commands, one constructor per row of the opcode table (R62). CRCB and PUT carry the operand byte `b`
(R61); no other command has an operand, so every value of this type is well formed. -/
inductive Instr where
  | nop
  | crci
  | crcb (b : Byte)
  | crcr
  | ser
  | des
  | put (b : Byte)
  | endInput
  | clr
  deriving DecidableEq, Repr

/-- The fields of a command word in the one format C16 (R60): opcode and operand. -/
structure C16 where
  op : Byte
  b : Byte
  deriving DecidableEq, Repr

/-- Why a word decodes to `ILLEGAL` (R64): (a) the opcode is reserved, (b) a command without operand has `b` not 0. -/
inductive IllegalWord where
  | reservedOpcode
  | nonzeroOperand
  deriving DecidableEq, Repr

/-- The pseudo-instructions of R67. -/
inductive Pseudo where
  | put32 (v : Word)
  | puts (bytes : List Byte)
  | crcs (bytes : List Byte)
  | crcof (bytes : List Byte)
  | serchunk (typ data : List Byte)
  | deschunk (bytes : List Byte)
  deriving DecidableEq, Repr

end Sys2Proof
end

