-- ==== Sys2Proof/WellFormed.lean ====
section
/-! DEFINITION. What is well formed: the checks on the fields of a word (30_encoding R60, R64) and on a
pseudo-instruction (R67). A value of `Instr` needs no check: its operand is a byte by its type (R61). -/

namespace Sys2Proof

/-- The opcode is one of the nine (R62). -/
def C16.opcodeKnown (f : C16) : Bool := f.op ≤ 0x08#8

/-- The operand is 0 unless the opcode is CRCB's or PUT's (R60: "must be 0x00 for every other command"). -/
def C16.operandAllowed (f : C16) : Bool := f.op == 0x02#8 || f.op == 0x06#8 || f.b == 0x00#8

/-- A legal word's fields (R62, R64). -/
def C16.wellFormed (f : C16) : Bool := f.opcodeKnown && f.operandAllowed

/-- SERCHUNK is written with four type characters, and its length must fit `PUT32` (R67, R55); the other
pseudo-instructions take any operand (DEDUCED, log entry 15). -/
def Pseudo.wellFormed : Pseudo → Bool
  | .serchunk typ data => typ.length == Config.typeLen && data.length ≤ Config.maxLen
  | _ => true

end Sys2Proof
end

