-- ==== Sys2Proof/Decode.lean ====
section
/-! DEFINITION. The decoder of 30_encoding R63, total on all 65536 words and rejecting by name (R64), its inverse the
encoder, the match/mask rows of R62, the pseudo-instruction expansions of R67 and the assembler syntax of R66. -/

namespace Sys2Proof

/-- `w[15:8]` and `w[7:0]` (R60, R61). -/
def C16.ofWord (w : CmdWord) : C16 := ⟨w.extractLsb' 8 8, w.extractLsb' 0 8⟩

/-- The word of a pair of fields: `op` in bits 15:8, `b` in bits 7:0 (R60). -/
def C16.toWord (f : C16) : CmdWord := f.op ++ f.b

/-- The decode function of R63; `.error` is the verdict `ILLEGAL`, with its kind (R64). -/
def decode (w : CmdWord) : Except IllegalWord Instr :=
  let f := C16.ofWord w
  if f.op = 0x02#8 then .ok (.crcb f.b)
  else if f.op = 0x06#8 then .ok (.put f.b)
  else if f.b = 0x00#8 then
    if f.op = 0x00#8 then .ok .nop
    else if f.op = 0x01#8 then .ok .crci
    else if f.op = 0x03#8 then .ok .crcr
    else if f.op = 0x04#8 then .ok .ser
    else if f.op = 0x05#8 then .ok .des
    else if f.op = 0x07#8 then .ok .endInput
    else if f.op = 0x08#8 then .ok .clr
    else .error .reservedOpcode
  else if f.opcodeKnown then .error .nonzeroOperand
  else .error .reservedOpcode

/-- The encoder, "the inverse" of R63. -/
def encode : Instr → CmdWord
  | .nop => C16.toWord ⟨0x00#8, 0x00#8⟩
  | .crci => C16.toWord ⟨0x01#8, 0x00#8⟩
  | .crcb b => C16.toWord ⟨0x02#8, b⟩
  | .crcr => C16.toWord ⟨0x03#8, 0x00#8⟩
  | .ser => C16.toWord ⟨0x04#8, 0x00#8⟩
  | .des => C16.toWord ⟨0x05#8, 0x00#8⟩
  | .put b => C16.toWord ⟨0x06#8, b⟩
  | .endInput => C16.toWord ⟨0x07#8, 0x00#8⟩
  | .clr => C16.toWord ⟨0x08#8, 0x00#8⟩

/-- The `mask` column of R62. -/
def Instr.rowMask : Instr → CmdWord
  | .crcb _ => 0xFF00#16
  | .put _ => 0xFF00#16
  | .nop | .crci | .crcr | .ser | .des | .endInput | .clr => 0xFFFF#16

/-- The `match` column of R62. -/
def Instr.rowMatch : Instr → CmdWord
  | .nop => 0x0000#16
  | .crci => 0x0100#16
  | .crcb _ => 0x0200#16
  | .crcr => 0x0300#16
  | .ser => 0x0400#16
  | .des => 0x0500#16
  | .put _ => 0x0600#16
  | .endInput => 0x0700#16
  | .clr => 0x0800#16

/-- The instruction the decoder reads from a table word `w` of `nbits` bits, the bits above `nbits` being 0. A command
word is 16 bits presented in parallel and has no byte order (20_memory R45); a wider one is cut (DESIGN CHOICE, log
entry 13). -/
def decodeTableWord (nbits w : Nat) : Option Instr :=
  match decode (BitVec.ofNat 16 (w % 2 ^ nbits)) with
  | .ok i => some i
  | .error _ => none

/-! ### Pseudo-instructions (R67) -/

/-- `PUT32 v`: four PUTs, most significant byte first. -/
def expandPut32 (v : Word) : List Instr :=
  [.put (v.extractLsb' 24 8), .put (v.extractLsb' 16 8), .put (v.extractLsb' 8 8), .put (v.extractLsb' 0 8)]

/-- `PUTS`: one PUT a byte. -/
def expandPuts (bytes : List Byte) : List Instr := bytes.map Instr.put

/-- `CRCS`: one CRCB a byte. -/
def expandCrcs (bytes : List Byte) : List Instr := bytes.map Instr.crcb

/-- The expansion of each pseudo-instruction, "to the commands shown and to nothing else" (R67). -/
def Pseudo.expand : Pseudo → List Instr
  | .put32 v => expandPut32 v
  | .puts bytes => expandPuts bytes
  | .crcs bytes => expandCrcs bytes
  | .crcof bytes => .crci :: (expandCrcs bytes ++ [.crcr])
  | .serchunk typ data =>
    .ser :: (expandPut32 (BitVec.ofNat 32 data.length) ++ (expandPuts typ ++ expandPuts data))
  | .deschunk bytes => .des :: expandPuts bytes

/-! ### Assembler syntax (R66): one command a line -/

/-- The mnemonic in capitals. -/
def Instr.mnemonicChars : Instr → List Char
  | .nop => ['N', 'O', 'P']
  | .crci => ['C', 'R', 'C', 'I']
  | .crcb _ => ['C', 'R', 'C', 'B']
  | .crcr => ['C', 'R', 'C', 'R']
  | .ser => ['S', 'E', 'R']
  | .des => ['D', 'E', 'S']
  | .put _ => ['P', 'U', 'T']
  | .endInput => ['E', 'N', 'D']
  | .clr => ['C', 'L', 'R']

/-- The value of a hexadecimal digit (DESIGN CHOICE, log entry 11: capitals and small letters). -/
def asmHexDigit (c : Char) : Option Nat :=
  if 48 ≤ c.toNat ∧ c.toNat ≤ 57 then some (c.toNat - 48)
  else if 65 ≤ c.toNat ∧ c.toNat ≤ 70 then some (c.toNat - 55)
  else if 97 ≤ c.toNat ∧ c.toNat ≤ 102 then some (c.toNat - 87)
  else none

/-- A decimal number, its digits from the left; `acc` is the value so far. The rest of the line is returned. -/
def asmDecimal (acc : Nat) : List Char → Nat × List Char
  | [] => (acc, [])
  | c :: cs =>
    if 48 ≤ c.toNat ∧ c.toNat ≤ 57 then asmDecimal (10 * acc + (c.toNat - 48)) cs else (acc, c :: cs)

/-- An operand: `0x` and two hexadecimal digits, one printable ASCII character in single quotes, or a decimal number 0
to 255 (R66). The rest of the line is returned. -/
def asmOperand : List Char → Option (Byte × List Char)
  | '0' :: 'x' :: h :: l :: rest =>
    match asmHexDigit h, asmHexDigit l with
    | some hi, some lo => some (BitVec.ofNat 8 (16 * hi + lo), rest)
    | _, _ => none
  | '\'' :: c :: '\'' :: rest =>
    if 32 ≤ c.toNat ∧ c.toNat ≤ 126 then some (BitVec.ofNat 8 c.toNat, rest) else none
  | c :: cs =>
    if 48 ≤ c.toNat ∧ c.toNat ≤ 57 then
      if (asmDecimal 0 (c :: cs)).1 ≤ 255 then
        some (BitVec.ofNat 8 (asmDecimal 0 (c :: cs)).1, (asmDecimal 0 (c :: cs)).2)
      else none
    else none
  | [] => none

/-- What may follow a command on its line: spaces, then the end or a comment from `;` on. -/
def asmLineEnd (cs : List Char) : Bool :=
  match cs.dropWhile (· == ' ') with
  | [] => true
  | c :: _ => c == ';'

/-- A command without operand, if the rest of the line allows it. -/
def asmPlain (i : Instr) (rest : List Char) : Option Instr := if asmLineEnd rest then some i else none

/-- A command with an operand after at least one space. -/
def asmWithOperand (mk : Byte → Instr) : List Char → Option Instr
  | ' ' :: rest =>
    match asmOperand (rest.dropWhile (· == ' ')) with
    | some (b, tail) => if asmLineEnd tail then some (mk b) else none
    | none => none
  | _ => none

/-- One line of assembler (R66), leading spaces skipped; `none` where it is no command. -/
def assemble (line : List Char) : Option Instr :=
  match line.dropWhile (· == ' ') with
  | 'N' :: 'O' :: 'P' :: rest => asmPlain .nop rest
  | 'C' :: 'R' :: 'C' :: 'I' :: rest => asmPlain .crci rest
  | 'C' :: 'R' :: 'C' :: 'B' :: rest => asmWithOperand .crcb rest
  | 'C' :: 'R' :: 'C' :: 'R' :: rest => asmPlain .crcr rest
  | 'S' :: 'E' :: 'R' :: rest => asmPlain .ser rest
  | 'D' :: 'E' :: 'S' :: rest => asmPlain .des rest
  | 'P' :: 'U' :: 'T' :: rest => asmWithOperand .put rest
  | 'E' :: 'N' :: 'D' :: rest => asmPlain .endInput rest
  | 'C' :: 'L' :: 'R' :: rest => asmPlain .clr rest
  | _ => none

/-- A hexadecimal digit's character. -/
def hexChar (n : Nat) : Char := if n < 10 then Char.ofNat (48 + n) else Char.ofNat (55 + n)

/-- The text of a command, its operand as `0x` and two digits (R66). -/
def Instr.toAsm : Instr → List Char
  | .crcb b => (Instr.crcb b).mnemonicChars ++ [' ', '0', 'x', hexChar (b.toNat / 16), hexChar (b.toNat % 16)]
  | .put b => (Instr.put b).mnemonicChars ++ [' ', '0', 'x', hexChar (b.toNat / 16), hexChar (b.toNat % 16)]
  | i => i.mnemonicChars

end Sys2Proof
end

