-- ==== Sys2Proof/Machine/State.lean ====
section
/-! DEFINITION. The state of the block as plain data: the eleven registers of 10_state R20 to R30, the output history
`OUT` (20_memory R42), and the host's events not yet consumed (20_memory R41, 70_reset_and_hazards R180). -/

namespace Sys2Proof.Machine

/-- The nine values of `phase` (10_state R24). Values 9 to 15 never occur and have no constructor (93 U11, DEDUCED, log
entry 9). -/
inductive Phase where
  | idle | sLen | sType | sData | dLen | dType | dData | dCrc | error
  deriving DecidableEq, Repr

/-- The five values of `err` (10_state R28, 60_exceptions R160). Values 5 to 15 never occur (93 U11,
DEDUCED, log entry 9). -/
inductive ErrCode where
  | none | invalidChunkType | checksumMismatch | truncated | illegalCommand
  deriving DecidableEq, Repr

/-- One thing the host does to the block: it presents a command word (R41), or it asserts and releases `rst` (R180),
presenting during the assertion the words listed, none of which is taken (R193). -/
inductive HostEvent where
  | command (w : CmdWord)
  | reset (whileAsserted : List CmdWord)
  deriving DecidableEq, Repr

/-- The state. `out` is the history of all bytes emitted; `host` is the model's own field (log entry 1). -/
structure State where
  /-- x[0], the CRC shift register before the final XOR (R21). -/
  acc : Word
  /-- x[1], the data length field (R22). -/
  len : Word
  /-- x[2], the type code, byte[0] in bits 31:24 (R23). -/
  typ : Word
  /-- x[3], the checksum field (R26). -/
  stored : Word
  /-- x[4], the data bytes still to come (R27). -/
  cnt : Word
  /-- S0, where the sequencer is (R24). -/
  phase : Phase
  /-- S1, the index of the next byte inside a 4-byte field (R25). -/
  pos : BitVec 2
  /-- S2, the error code (R28). -/
  err : ErrCode
  /-- S3, the phase at error entry (R28). -/
  ephase : Phase
  /-- S4, an operation completed without error (R29). -/
  done : Bool
  /-- S5, the type code is complete (R30). -/
  tfull : Bool
  /-- `OUT`, oldest byte first (20_memory R42); the whole history, no FIFO (DESIGN CHOICE, log entry 4). -/
  out : List Byte
  /-- The host's events not yet consumed, the next one first (DESIGN CHOICE, log entry 1). -/
  host : List HostEvent
  deriving DecidableEq, Repr

/-- The machine never stops with a fault: `step` is total (44_control R156) and the block's four errors are taken as
next states (60_exceptions R165). So there is no constructor, which is safe: nothing is cut short. -/
inductive Fault where
  deriving DecidableEq, Repr

/-- Why a step gives no meaning. -/
inductive Refusal where
  /-- Raised by nobody: it is the form of an arm of `exec` not yet written, and none is left. Safe. -/
  | notModelled (mnemonic : String)
  deriving DecidableEq, Repr

/-- `RESET_STATE` (10_state R36) with `OUT` empty (power-on reset) and nothing presented by the host.
A block never reset has no state (70_reset_and_hazards R181, DESIGN CHOICE, log entry 7). -/
def State.reset : State where
  acc := 0xFFFFFFFF#32
  len := 0#32
  typ := 0#32
  stored := 0#32
  cnt := 0#32
  phase := .idle
  pos := 0#2
  err := .none
  ephase := .idle
  done := false
  tfull := false
  out := []
  host := []

end Sys2Proof.Machine
end

