-- ==== Sys2Proof/Machine/Operands.lean ====
section
/-! DEFINITION. Operand assembly (30_encoding R61), big-endian conversion (00_scope R8, 20_memory R45), the numbered data
registers (10_state R20) and the stream position (10_state R31). -/

namespace Sys2Proof.Machine

/-- `zext_32(b)` (R9, R61). -/
def zext32 (b : Byte) : Word := b.setWidth 32

/-- `(r << 8) | zext_32(b)` truncated to 32 bits: how `len`, `typ` and `stored` are assembled (R22, R23, R26, R104). -/
def shiftIn (r : Word) (b : Byte) : Word := (r <<< 8) ||| zext32 b

/-- `be32(v)`, most significant byte first (R8). -/
def be32 (v : Word) : List Byte :=
  [v.extractLsb' 24 8, v.extractLsb' 16 8, v.extractLsb' 8 8, v.extractLsb' 0 8]

/-- `from_be32([b0,b1,b2,b3])`, `b0` in bits 31:24 (R8). -/
def fromBe32 (b0 b1 b2 b3 : Byte) : Word := b0 ++ b1 ++ b2 ++ b3

/-- The data registers by number, `x[i]` (R9, R20). -/
def State.x (s : State) : Fin 5 → Word
  | 0 => s.acc
  | 1 => s.len
  | 2 => s.typ
  | 3 => s.stored
  | 4 => s.cnt

/-- The phases S_LEN to D_CRC, in which a chunk operation is open (R24, R152). -/
def Phase.inOperation : Phase → Bool
  | .sLen | .sType | .sData | .dLen | .dType | .dData | .dCrc => true
  | .idle | .error => false

/-- The position inside the serialized chunk, a natural number (R31, R55); none outside an operation, where the spec
defines no position (DEDUCED, log entry 12). -/
def State.offset (s : State) : Option Nat :=
  match s.phase with
  | .sLen | .dLen => some s.pos.toNat
  | .sType | .dType => some (4 + s.pos.toNat)
  | .sData | .dData => some (8 + (s.len.toNat - s.cnt.toNat))
  | .dCrc => some (8 + s.len.toNat + s.pos.toNat)
  | .idle | .error => none

end Sys2Proof.Machine
end

