-- ==== Sys2Proof/Machine/ChunkType.lean ====
section
/-! DEFINITION. The chunk type check and the four properties of a type code (40_chunk_type R80 to R86). -/

namespace Sys2Proof.Machine

/-- `is_letter(b)`: A to Z or a to z in ASCII (R80). -/
def isLetter (b : Byte) : Bool := (0x41#8 ≤ b && b ≤ 0x5A#8) || (0x61#8 ≤ b && b ≤ 0x7A#8)

/-- A sequence of 4 bytes is a ChunkType exactly when all four are letters (R81). -/
def isChunkType (t : List Byte) : Bool := t.length == 4 && t.all isLetter

/-- Byte[0] bit 5 clear (R82). -/
def isCritical (typ : Word) : Bool := !typ.getLsbD 29

/-- Byte[1] bit 5 clear (R83). -/
def isPublic (typ : Word) : Bool := !typ.getLsbD 21

/-- Byte[2] bit 5 clear, the reserved bit: a query, not a check (R84). -/
def isValid (typ : Word) : Bool := !typ.getLsbD 13

/-- Byte[3] bit 5 set (R85). -/
def isSafeToCopy (typ : Word) : Bool := typ.getLsbD 5

end Sys2Proof.Machine
end

