-- ==== Sys2Proof/Machine/Crc.lean ====
section
/-! DEFINITION. The CRC-32 engine of 41_crc32: bit step, byte update, final XOR, CRC of a sequence (R90 to R95), and the
table form with its ROM (R96, R97, 20_memory R44). The machine uses the bit-serial form; that no command can tell the
two apart is R97 (DESIGN CHOICE, log entry 6). -/

namespace Sys2Proof.Machine

/-- One bit step (R91). -/
def bitstep (c : Word) : Word := if c.getLsbD 0 then (c >>> 1) ^^^ Config.poly else c >>> 1

/-- `bitstep` applied `n` times. -/
def bitsteps : Nat → Word → Word
  | 0, c => c
  | n + 1, c => bitsteps n (bitstep c)

/-- `upd(a, b)`: the byte enters the low 8 bits, then 8 bit steps (R92). -/
def upd (a : Word) (b : Byte) : Word := bitsteps 8 (a ^^^ zext32 b)

/-- `fin(a)`, the final XOR (R94). -/
def fin (a : Word) : Word := a ^^^ Config.xorOut

/-- The register after feeding a sequence from `a` (R95, R99). -/
def updAll (a : Word) (bytes : List Byte) : Word := bytes.foldl upd a

/-- The CRC-32 of a byte sequence (R95). -/
def crc32 (bytes : List Byte) : Word := fin (updAll Config.init bytes)

/-- `T[n]` (R96), the entry computed from the bit step. -/
def tableEntry (n : Byte) : Word := bitsteps 8 (zext32 n)

/-- The table form of the update (R97). -/
def updTable (a : Word) (b : Byte) : Word := tableEntry ((a ^^^ zext32 b).extractLsb' 0 8) ^^^ (a >>> 8)

end Sys2Proof.Machine
end

