-- ==== Sys2Proof/Machine/Ops.lean ====
section
/-! DEFINITION. The shared operations: emitting bytes (20_memory R42), error entry and the return from it (60_exceptions
R165, R167), the start and the completion of a chunk operation (42_serializer R111, R115, 43_deserializer R131), and the
legality of a command that needs phase IDLE (44_control R156). -/

namespace Sys2Proof.Machine

/-- A step's outcome. -/
abbrev Result := Host.Outcome State Fault Refusal

/-- `Emit`: append bytes to `OUT` in order (R42). -/
def emit (bytes : List Byte) (s : State) : State := { s with out := s.out ++ bytes }

/-- Error entry, `raise E` (R165): `ephase <- phase; err <- E; phase <- ERROR`; nothing else, nothing emitted. -/
def raise (e : ErrCode) (s : State) : State := { s with ephase := s.phase, err := e, phase := .error }

/-- The return from ERROR, and reset: every register takes its reset value; `OUT` and the host's events stay (R151,
R167, R180, R182, R36). -/
def resetRegs (s : State) : State := { State.reset with out := s.out, host := s.host }

/-- The presets SER and DES share, entering phase `p` (R111, R131); `err`, `ephase` and `OUT` are not written. -/
def startOperation (p : Phase) (s : State) : State :=
  { s with
    acc := Config.init, len := 0#32, typ := 0#32, stored := 0#32, cnt := 0#32,
    pos := 0#2, done := false, tfull := false, phase := p }

/-- `complete_ser(a)` (R115): the checksum goes to `stored` and, most significant byte first, to `OUT`. -/
def completeSer (a : Word) (s : State) : State :=
  { s with stored := fin a, out := s.out ++ be32 (fin a), phase := .idle, done := true }

/-- The legality of CRCI, CRCB, CRCR, SER and DES (R156): ignored in ERROR, carried out in IDLE, IllegalCommand
elsewhere. -/
def onlyInIdle (effect : State → State) (s : State) : State :=
  match s.phase with
  | .error => s
  | .idle => effect s
  | .sLen | .sType | .sData | .dLen | .dType | .dData | .dCrc => raise .illegalCommand s

/-- A word that decodes to `ILLEGAL` (R156, R164): IllegalCommand, but ignored in ERROR (R166). -/
def illegalWord (s : State) : State :=
  match s.phase with
  | .error => s
  | .idle | .sLen | .sType | .sData | .dLen | .dType | .dData | .dCrc => raise .illegalCommand s

end Sys2Proof.Machine
end

