-- ==== Sys2Proof/Machine/Deserializer.lean ====
section
/-! DEFINITION. The chunk deserializer and checker: DES and PUT in phases D_LEN, D_TYPE, D_DATA, D_CRC (43_deserializer
R131 to R135). -/

namespace Sys2Proof.Machine

/-- DES, "start deserializing" (R131). -/
def execDes (s : State) : Result := .next (onlyInIdle (startOperation .dLen) s)

/-- PUT b in D_LEN: a length byte; nothing is emitted; the fourth loads `cnt` (R132). -/
def putDLen (b : Byte) (s : State) : State :=
  let s' := { s with len := shiftIn s.len b }
  if s.pos = 3#2 then { s' with cnt := shiftIn s.len b, pos := 0#2, phase := .dType }
  else { s' with pos := s.pos + 1#2 }

/-- PUT b in D_TYPE: a type byte, recorded, checked and fed; the fourth completes the type (R133). -/
def putDType (b : Byte) (s : State) : State :=
  let recorded := { s with typ := shiftIn s.typ b }
  if isLetter b then
    let taken := { recorded with acc := upd s.acc b }
    if s.pos = 3#2 then
      let full := { taken with pos := 0#2, tfull := true }
      if s.cnt = 0#32 then { full with phase := .dCrc } else { full with phase := .dData }
    else { taken with pos := s.pos + 1#2 }
  else raise .invalidChunkType recorded

/-- PUT b in D_DATA: a data byte, fed and emitted at once (R134). -/
def putDData (b : Byte) (s : State) : State :=
  let taken := emit [b] { s with acc := upd s.acc b, cnt := s.cnt - 1#32 }
  if s.cnt - 1#32 = 0#32 then { taken with phase := .dCrc } else taken

/-- PUT b in D_CRC: a byte of the stored checksum; the fourth gives the verdict (R135). -/
def putDCrc (b : Byte) (s : State) : State :=
  let recorded := { s with stored := shiftIn s.stored b }
  if s.pos = 3#2 then
    if shiftIn s.stored b = fin s.acc then { recorded with pos := 0#2, phase := .idle, done := true }
    else raise .checksumMismatch recorded
  else { recorded with pos := s.pos + 1#2 }

end Sys2Proof.Machine
end

