-- ==== Sys2Proof/Machine/Serializer.lean ====
section
/-! DEFINITION. The chunk serializer: SER and PUT in phases S_LEN, S_TYPE, S_DATA (42_serializer R111 to R115). -/

namespace Sys2Proof.Machine

/-- SER, "start serializing" (R111). -/
def execSer (s : State) : Result := .next (onlyInIdle (startOperation .sLen) s)

/-- PUT b in S_LEN: a length byte, emitted; the fourth loads `cnt` (R112). -/
def putSLen (b : Byte) (s : State) : State :=
  let s' := emit [b] { s with len := shiftIn s.len b }
  if s.pos = 3#2 then { s' with cnt := shiftIn s.len b, pos := 0#2, phase := .sType }
  else { s' with pos := s.pos + 1#2 }

/-- PUT b in S_TYPE: a type byte, recorded, checked, fed and emitted; the fourth completes the type, and the chunk if
its length is 0 (R113). -/
def putSType (b : Byte) (s : State) : State :=
  let recorded := { s with typ := shiftIn s.typ b }
  if isLetter b then
    let taken := emit [b] { recorded with acc := upd s.acc b }
    if s.pos = 3#2 then
      let full := { taken with pos := 0#2, tfull := true }
      if s.cnt = 0#32 then completeSer (upd s.acc b) full else { full with phase := .sData }
    else { taken with pos := s.pos + 1#2 }
  else raise .invalidChunkType recorded

/-- PUT b in S_DATA: a data byte, fed and emitted; the last completes the chunk (R114). -/
def putSData (b : Byte) (s : State) : State :=
  let taken := emit [b] { s with acc := upd s.acc b, cnt := s.cnt - 1#32 }
  if s.cnt - 1#32 = 0#32 then completeSer (upd s.acc b) taken else taken

end Sys2Proof.Machine
end

