-- ==== Sys2Proof/Machine/Control.lean ====
section
/-! DEFINITION. The control commands NOP, CLR, END, and PUT's dispatch by phase (44_control R150 to R153). -/

namespace Sys2Proof.Machine

/-- NOP: nothing, in every phase (R150). -/
def execNop (s : State) : Result := .next s

/-- CLR: every register takes its reset value, in every phase (R151). -/
def execClr (s : State) : Result := .next (resetRegs s)

/-- END: nothing in IDLE, ignored in ERROR, Truncated inside an operation (R152). -/
def execEnd (s : State) : Result :=
  .next (match s.phase with
    | .idle => s
    | .error => s
    | .sLen | .sType | .sData | .dLen | .dType | .dData | .dCrc => raise .truncated s)

/-- PUT b: the meaning the phase chooses (R153). -/
def execPut (b : Byte) (s : State) : Result :=
  .next (match s.phase with
    | .idle => raise .illegalCommand s
    | .sLen => putSLen b s
    | .sType => putSType b s
    | .sData => putSData b s
    | .dLen => putDLen b s
    | .dType => putDType b s
    | .dData => putDData b s
    | .dCrc => putDCrc b s
    | .error => s)

end Sys2Proof.Machine
end

