-- ==== Sys2Proof/Machine/RawCrc.lean ====
section
/-! DEFINITION. The raw CRC commands CRCI, CRCB and CRCR (41_crc32 R100 to R102). -/

namespace Sys2Proof.Machine

/-- CRCI, "CRC initialise": the preset goes to `acc` (R100). -/
def execCrci (s : State) : Result := .next (onlyInIdle (fun s => { s with acc := Config.init }) s)

/-- CRCB b, "CRC byte": the byte is fed to `acc`, not passed to `OUT` (R101). -/
def execCrcb (b : Byte) (s : State) : Result := .next (onlyInIdle (fun s => { s with acc := upd s.acc b }) s)

/-- CRCR, "CRC read": the final value is emitted big-endian; no register is written (R102). -/
def execCrcr (s : State) : Result := .next (onlyInIdle (fun s => emit (be32 (fin s.acc)) s) s)

end Sys2Proof.Machine
end

