-- ==== Sys2Proof/Machine/Dispatch.lean ====
section
/-! DEFINITION. One arm per command (30_encoding R62). -/

namespace Sys2Proof.Machine

def exec (i : Instr) (s : State) : Host.Outcome State Fault Refusal :=
  match i with
  | .nop => Sys2Proof.Machine.execNop s
  | .crci => Sys2Proof.Machine.execCrci s
  | .crcb b => Sys2Proof.Machine.execCrcb b s
  | .crcr => Sys2Proof.Machine.execCrcr s
  | .ser => Sys2Proof.Machine.execSer s
  | .des => Sys2Proof.Machine.execDes s
  | .put b => Sys2Proof.Machine.execPut b s
  | .endInput => Sys2Proof.Machine.execEnd s
  | .clr => Sys2Proof.Machine.execClr s

end Sys2Proof.Machine
end

