-- ==== Sys2Proof/Machine/Fetch.lean ====
section
/-! DEFINITION. Taking the host's next event: a command word (20_memory R41, 44_control R156), a reset
(70_reset_and_hazards R180), or nothing. -/

namespace Sys2Proof.Machine

/-- What the block finds at its inputs, with the state less the event it consumes. -/
inductive Fetched where
  | nothing
  | reset (s : State)
  | command (w : CmdWord) (s : State)
  deriving DecidableEq, Repr

/-- The host's next event, consumed in the order presented (R41). The words presented while `rst` is asserted go with
the reset and are not taken (R193). -/
def fetch (s : State) : Fetched :=
  match s.host with
  | [] => .nothing
  | .reset _ :: rest => .reset { s with host := rest }
  | .command w :: rest => .command w { s with host := rest }

/-- One command step (R156): decode the word, then the command's meaning or the verdict `ILLEGAL`. -/
def execWord (w : CmdWord) (s : State) : Result :=
  match decode w with
  | .ok i => exec i s
  | .error _ => .next (illegalWord s)

/-- The reset event between two steps (R180): the registers take `RESET_STATE`, `OUT` keeps its history (R36). One
atomic event (DESIGN CHOICE, log entry 3). -/
def takeReset (s : State) : Result := .next (resetRegs s)

/-- No command and no reset: the block holds its registers and does nothing (60_exceptions R174, DEDUCED, log entry 2). -/
def hold (s : State) : Result := .next s

/-- The host presents a command word before everything it has still to present. -/
def State.present (w : CmdWord) (s : State) : State := { s with host := .command w :: s.host }

/-- The events of a host that presents the words of these commands in order. -/
def presented (is : List Instr) : List HostEvent := is.map (fun i => .command (encode i))

end Sys2Proof.Machine
end

