-- ==== Sys2Proof/Machine/Step.lean ====
section
/-! DEFINITION. One step: the host's next event and its effect (44_control R156, 70_reset_and_hazards R180). -/

namespace Sys2Proof.Machine

def step (s : State) : Host.Outcome State Fault Refusal :=
  match fetch s with
  | .nothing => hold s
  | .reset s' => takeReset s'
  | .command w s' => execWord w s'

/-- `s` with the table word `w` of `nbits` bits presented next; the bits above `nbits` are 0. -/
def State.withFetchWord (s : State) (nbits w : Nat) : State := s.present (BitVec.ofNat 16 (w % 2 ^ nbits))

end Sys2Proof.Machine
end

