-- ==== Sys2Proof/Machine/Chunk.lean ====
section
/-! DEFINITION. The functions the two chunk operations implement, as pure functions on byte sequences: the layout of a
serialized chunk (20_memory R48, R55), `serialize` (42_serializer R110) and `deserialize` (43_deserializer R130). They are
written beside the machine and not used by it. -/

namespace Sys2Proof.Machine

/-- The four fields of a serialized chunk (R48). -/
inductive Field where
  | length | type | data | checksum
  deriving DecidableEq, Repr

/-- Total size of a serialized chunk with `n` data bytes, a natural number (R48, R55). -/
def chunkSize (n : Nat) : Nat := Config.overhead + n

/-- The field that holds byte offset `k` of a chunk with `n` data bytes (R48); none past the chunk's end. -/
def fieldAt (n k : Nat) : Option Field :=
  if k < 4 then some .length
  else if k < 8 then some .type
  else if k < 8 + n then some .data
  else if k < chunkSize n then some .checksum
  else none

/-- Is the field in the checksum (R48, R98)? -/
def Field.inChecksum : Field → Bool
  | .type | .data => true
  | .length | .checksum => false

/-- `serialize(t, d)` (R110). -/
def serialize (t d : List Byte) : List Byte :=
  be32 (BitVec.ofNat 32 d.length) ++ t ++ d ++ be32 (crc32 (t ++ d))

/-- The errors `deserialize` can return (R130). -/
inductive DesError where
  | invalidChunkType | checksumMismatch | truncated
  deriving DecidableEq, Repr

/-- The error code by which the block reports the error (R136, 60_exceptions R160). -/
def DesError.errCode : DesError → ErrCode
  | .invalidChunkType => .invalidChunkType
  | .checksumMismatch => .checksumMismatch
  | .truncated => .truncated

/-- The result of `deserialize`: `Ok(t, d, c, rest)` or an error (R130). -/
inductive DesResult where
  | ok (t d : List Byte) (c : Word) (rest : List Byte)
  | error (e : DesError)
  deriving DecidableEq, Repr

/-- The check of the type field, `k` bytes from the front of `s`, in stream order (R130): the first error, if any. -/
def typeFieldError : Nat → List Byte → Option DesError
  | 0, _ => none
  | _ + 1, [] => some .truncated
  | k + 1, b :: bs => if isLetter b then typeFieldError k bs else some .invalidChunkType

/-- The checksum field and what follows it: `Ok` or ChecksumMismatch (R130). -/
def checkChecksum (t d : List Byte) : List Byte → DesResult
  | c0 :: c1 :: c2 :: c3 :: rest =>
    if fromBe32 c0 c1 c2 c3 = crc32 (t ++ d) then .ok t d (fromBe32 c0 c1 c2 c3) rest
    else .error .checksumMismatch
  | _ => .error .truncated

/-- `deserialize(s)`, errors in stream order (R130). -/
def deserialize (s : List Byte) : DesResult :=
  match s with
  | n0 :: n1 :: n2 :: n3 :: body =>
    let n := (fromBe32 n0 n1 n2 n3).toNat
    match typeFieldError 4 body with
    | some e => .error e
    | none =>
      if s.length < 12 + n then .error .truncated
      else checkChecksum (body.take 4) ((body.drop 4).take n) ((body.drop 4).drop n)
  | _ => .error .truncated

/-- The length a serialized chunk declares, 0 where its length field is not all there. -/
def declaredLength : List Byte → Nat
  | n0 :: n1 :: n2 :: n3 :: _ => (fromBe32 n0 n1 n2 n3).toNat
  | _ => 0

end Sys2Proof.Machine
end

