-- ==== Sys2Proof/Machine/Flags.lean ====
section
/-! DEFINITION. The numbers of the phases and error codes (10_state R24, 60_exceptions R160) and every status wire: the
registers and the derived wires of 10_state R32 and R33. -/

namespace Sys2Proof.Machine

/-- The numeric value of `phase` (R24). -/
def Phase.code : Phase → BitVec 4
  | .idle => 0#4
  | .sLen => 1#4
  | .sType => 2#4
  | .sData => 3#4
  | .dLen => 4#4
  | .dType => 5#4
  | .dData => 6#4
  | .dCrc => 7#4
  | .error => 8#4

/-- The numeric value of `err` (R160). -/
def ErrCode.code : ErrCode → BitVec 4
  | .none => 0#4
  | .invalidChunkType => 1#4
  | .checksumMismatch => 2#4
  | .truncated => 3#4
  | .illegalCommand => 4#4

/-- `crc_o`, the CRC-32 of what has been fed (R33). -/
def State.crcO (s : State) : Word := fin s.acc

/-- `f_critical` (R32). -/
def State.fCritical (s : State) : Bool := s.tfull && isCritical s.typ

/-- `f_public` (R32). -/
def State.fPublic (s : State) : Bool := s.tfull && isPublic s.typ

/-- `f_valid` (R32). -/
def State.fValid (s : State) : Bool := s.tfull && isValid s.typ

/-- `f_safe` (R32). -/
def State.fSafe (s : State) : Bool := s.tfull && isSafeToCopy s.typ

/-- `err_o` (R33, R170). -/
def State.errO (s : State) : Bool := s.phase == .error

/-- `done_o` (R33, R170). -/
def State.doneO (s : State) : Bool := s.done

/-- All output wires between two steps, with their widths (R33). -/
structure Wires where
  acc : BitVec 32
  len : BitVec 32
  typ : BitVec 32
  stored : BitVec 32
  cnt : BitVec 32
  phase : BitVec 4
  pos : BitVec 2
  err : BitVec 4
  ephase : BitVec 4
  done : Bool
  tfull : Bool
  crcO : BitVec 32
  fCritical : Bool
  fPublic : Bool
  fValid : Bool
  fSafe : Bool
  errO : Bool
  doneO : Bool
  deriving DecidableEq, Repr

/-- What the host reads on the wires; reading changes nothing (R33, 20_memory R47). -/
def State.wires (s : State) : Wires where
  acc := s.acc
  len := s.len
  typ := s.typ
  stored := s.stored
  cnt := s.cnt
  phase := s.phase.code
  pos := s.pos
  err := s.err.code
  ephase := s.ephase.code
  done := s.done
  tfull := s.tfull
  crcO := s.crcO
  fCritical := s.fCritical
  fPublic := s.fPublic
  fValid := s.fValid
  fSafe := s.fSafe
  errO := s.errO
  doneO := s.doneO

end Sys2Proof.Machine
end

