-- ==== Sys2Proof/Machine/Legality.lean ====
section
/-! DEFINITION. The two tables of the spec that say of every word and phase what may happen: legality by phase
(30_encoding R68) and the phase transitions (44_control R154). They are written beside the machine and not used by it. -/

namespace Sys2Proof.Machine

/-- An entry of R68: its rule applies, IllegalCommand, ignored, Truncated. -/
inductive Verdict where
  | ok | ill | ign | trunc
  deriving DecidableEq, Repr

/-- The table of R68; `none` is the row of the `ILLEGAL` word. -/
def legality : Option Instr → Phase → Verdict
  | some .clr, _ => .ok
  | some .nop, .error => .ign
  | some .nop, _ => .ok
  | _, .error => .ign
  | none, _ => .ill
  | some .crci, .idle => .ok
  | some (.crcb _), .idle => .ok
  | some .crcr, .idle => .ok
  | some .ser, .idle => .ok
  | some .des, .idle => .ok
  | some .crci, _ => .ill
  | some (.crcb _), _ => .ill
  | some .crcr, _ => .ill
  | some .ser, _ => .ill
  | some .des, _ => .ill
  | some (.put _), .idle => .ill
  | some (.put _), _ => .ok
  | some .endInput, .idle => .ok
  | some .endInput, _ => .trunc

/-- The phase a command moves the block to, read from the table of R154; `none` is an illegal word. -/
def nextPhase (s : State) : Option Instr → Phase
  | some .clr => .idle
  | some .nop => s.phase
  | none => .error
  | some .ser => match s.phase with | .idle => .sLen | _ => .error
  | some .des => match s.phase with | .idle => .dLen | _ => .error
  | some .crci => match s.phase with | .idle => .idle | _ => .error
  | some (.crcb _) => match s.phase with | .idle => .idle | _ => .error
  | some .crcr => match s.phase with | .idle => .idle | _ => .error
  | some .endInput => match s.phase with | .idle => .idle | _ => .error
  | some (.put b) =>
    match s.phase with
    | .idle => .error
    | .sLen => if s.pos.toNat < 3 then .sLen else .sType
    | .sType =>
      if !isLetter b then .error
      else if s.pos.toNat < 3 then .sType
      else if s.cnt = 0#32 then .idle else .sData
    | .sData => if s.cnt = 1#32 then .idle else .sData
    | .dLen => if s.pos.toNat < 3 then .dLen else .dType
    | .dType =>
      if !isLetter b then .error
      else if s.pos.toNat < 3 then .dType
      else if s.cnt = 0#32 then .dCrc else .dData
    | .dData => if s.cnt = 1#32 then .dCrc else .dData
    | .dCrc =>
      if s.pos.toNat < 3 then .dCrc
      else if shiftIn s.stored b = fin s.acc then .idle else .error
    | .error => .error

end Sys2Proof.Machine
end

