-- ==== Sys2Proof/Machine/Session.lean ====
section
/-! DEFINITION. The host's procedure of 43_deserializer R136 and R140: send PUT byte by byte while the block is inside the
operation, and END when the bytes are used up. -/

namespace Sys2Proof.Machine

/-- The host feeds `bytes` by PUT "and stops sending PUT as soon as `phase` is IDLE or ERROR" or the bytes are used up;
"if `s` was used up while `phase` was still one of D_LEN to D_CRC it sends `END`" (R136). The result is the block's state
and the bytes the host has left. -/
def feed : List Byte → State → Host.Outcome (State × List Byte) Fault Refusal
  | [], s =>
    if s.phase.inOperation then
      match exec .endInput s with
      | .next t => .next (t, [])
      | .fault f => .fault f
      | .refused r => .refused r
    else .next (s, [])
  | b :: bs, s =>
    if s.phase.inOperation then
      match exec (.put b) s with
      | .next t => feed bs t
      | .fault f => .fault f
      | .refused r => .refused r
    else .next (s, b :: bs)

/-- A whole DES operation on the available bytes: `DES`, then the bytes (R136). -/
def desSession (bytes : List Byte) (s : State) : Host.Outcome (State × List Byte) Fault Refusal :=
  match exec .des s with
  | .next t => feed bytes t
  | .fault f => .fault f
  | .refused r => .refused r

end Sys2Proof.Machine
end

