-- ==== Sys2Proof/Safety.lean ====
section
/-! DEFINITION. What claims are stated in: the invariants of 10_state R34 and R30, and when an operation and a run are
over (70_reset_and_hazards R184, R185). -/

namespace Sys2Proof.Machine

/-- R34 clauses 1 and 2: `err` is not NONE exactly in ERROR, `ephase` is IDLE outside ERROR and never ERROR itself (0..7). -/
abbrev ErrorRecord (s : State) : Prop :=
  (s.err ≠ .none ↔ s.phase = .error) ∧ (s.phase ≠ .error → s.ephase = .idle) ∧ s.ephase ≠ .error

/-- R34 clause 3: `pos` is 0 in IDLE and in the data phases. -/
abbrev PosAtRest (s : State) : Prop := s.phase = .idle ∨ s.phase = .sData ∨ s.phase = .dData → s.pos = 0#2

/-- R34 clause 4: what `cnt` is in each phase of an operation. -/
abbrev CntTracks (s : State) : Prop :=
  (s.phase = .sLen ∨ s.phase = .dLen ∨ s.phase = .dCrc → s.cnt = 0#32) ∧
  (s.phase = .sType ∨ s.phase = .dType → s.cnt = s.len) ∧
  (s.phase = .sData ∨ s.phase = .dData → 1#32 ≤ s.cnt ∧ s.cnt ≤ s.len)

/-- R34 clause 5: in which phases the type code is complete. -/
abbrev TfullTracks (s : State) : Prop :=
  (s.phase = .sData ∨ s.phase = .dData ∨ s.phase = .dCrc → s.tfull = true) ∧
  (s.phase = .sLen ∨ s.phase = .dLen ∨ s.phase = .sType ∨ s.phase = .dType → s.tfull = false)

/-- R34 clause 6: `done` is 0 inside an operation, and `done` = 1 implies `tfull` = 1. -/
abbrev DoneTracks (s : State) : Prop :=
  (s.phase.inOperation = true → s.done = false) ∧ (s.done = true → s.tfull = true)

/-- R34 clauses 1 to 6, the invariant of the control state. -/
abbrev ControlInv (s : State) : Prop :=
  ErrorRecord s ∧ PosAtRest s ∧ CntTracks s ∧ TfullTracks s ∧ DoneTracks s

/-- The type bytes taken so far in a type phase: the last `pos` bytes shifted into `typ` (R23, R25). -/
def typeBytesTaken (s : State) : List Byte := (be32 s.typ).drop (4 - s.pos.toNat)

/-- How many data bytes of the current chunk have been taken (R27). -/
def dataTaken (s : State) : Nat := s.len.toNat - s.cnt.toNat

/-- The data bytes taken so far, in a data phase or D_CRC: the last bytes of `OUT` (R114, R134). -/
def dataBytesTaken (s : State) : List Byte := s.out.drop (s.out.length - dataTaken s)

/-- R34 clause 7: `acc` is the preset updated by exactly the type and data bytes taken so far. In the length phases it is
still the preset (R112, R132: `acc` is not changed). -/
abbrev CrcTracks (s : State) : Prop :=
  (s.phase = .sLen ∨ s.phase = .dLen → s.acc = Config.init) ∧
  (s.phase = .sType ∨ s.phase = .dType → s.acc = updAll Config.init (typeBytesTaken s)) ∧
  (s.phase = .sData ∨ s.phase = .dData ∨ s.phase = .dCrc →
    dataTaken s ≤ s.out.length ∧ s.acc = updAll Config.init (be32 s.typ ++ dataBytesTaken s))

/-- R30: while `tfull` = 1, `typ` is a valid ChunkType; in a type phase the bytes taken so far are letters. -/
abbrev TypeIsLetters (s : State) : Prop :=
  (s.phase = .sType ∨ s.phase = .dType → (typeBytesTaken s).all isLetter = true) ∧
  (s.tfull = true → isChunkType (be32 s.typ) = true)

/-- Every register at the value the table of R36 gives it. -/
abbrev AtResetValues (s : State) : Prop :=
  s.acc = 0xFFFFFFFF#32 ∧ s.len = 0#32 ∧ s.typ = 0#32 ∧ s.stored = 0#32 ∧ s.cnt = 0#32 ∧ s.phase.code = 0#4 ∧
  s.pos = 0#2 ∧ s.err.code = 0#4 ∧ s.ephase.code = 0#4 ∧ s.done = false ∧ s.tfull = false

/-- An operation that was open is over (R184): the phase is IDLE or ERROR. R184 speaks of IDLE with `done` = 1 (success)
and ERROR (failure); an operation abandoned by CLR or reset is in IDLE with `done` = 0, which R184 does not name, and
this definition does not test `done` and counts it as over (DESIGN CHOICE, log entry 16). Success is `DataValidated`. -/
def OperationOver (s : State) : Bool := s.phase == .idle || s.phase == .error

/-- The run ended well: the phase is IDLE. R184 gives this as a necessary condition ("only if"); that it is the whole
definition, so that a run whose operation was abandoned by CLR or reset counts too, is DESIGN CHOICE, log entry 17. -/
def RunEndedWell (s : State) : Bool := s.phase == .idle

/-- The data bytes `OUT` received since a DES command may be used only then (R185). -/
def DataValidated (s : State) : Bool := s.done

end Sys2Proof.Machine
end

