-- ==== Sys2Proof/Certificates/Slice0/Obligations.lean ====
section
/-! DEFINITION. The statements for the provers. Each docstring names the rule of spec/ it formalises. -/

open Sys2Proof Sys2Proof.Machine

/-! ### Reset, and what is on the wires -/

/-- 10_state R36: the reset values, after power-on reset, after CLR and after a later reset; OUT is empty at power-on
and otherwise unchanged; `crc_o` and the four property flags then read 0. -/
def Obligations.ResetAndClrLeaveTheResetValues : Prop :=
  AtResetValues State.reset ∧ State.reset.out = [] ∧
  (∀ s : State, ∃ t, exec .clr s = .next t ∧ AtResetValues t ∧ t.out = s.out) ∧
  (∀ (s : State) (ws : List CmdWord) (rest : List HostEvent), s.host = .reset ws :: rest →
    ∃ t, step s = .next t ∧ AtResetValues t ∧ t.out = s.out) ∧
  (∀ s : State, AtResetValues s → s.crcO = 0#32 ∧ s.fCritical = false ∧ s.fPublic = false ∧ s.fValid = false ∧
    s.fSafe = false)

/-- 40_chunk_type R82, R83, R85, on the wires of 10_state R32: the four property wires, from bit 5 (0x20) of each byte
of `typ`, gated by `tfull`. -/
def Obligations.PropertyWiresAreBitFiveGatedByTfull : Prop :=
  ∀ (s : State) (b0 b1 b2 b3 : Byte), s.typ = fromBe32 b0 b1 b2 b3 →
    (s.fCritical = true ↔ s.tfull = true ∧ b0 &&& 0x20#8 = 0#8) ∧
    (s.fPublic = true ↔ s.tfull = true ∧ b1 &&& 0x20#8 = 0#8) ∧
    (s.fValid = true ↔ s.tfull = true ∧ b2 &&& 0x20#8 = 0#8) ∧
    (s.fSafe = true ↔ s.tfull = true ∧ b3 &&& 0x20#8 = 0x20#8)

/-- 10_state R33: the derived wires, and the registers on wires of their own; 10_state R24: the number of each phase. -/
def Obligations.WiresShowTheRegisters : Prop :=
  ∀ s : State,
    (s.wires.acc = s.acc ∧ s.wires.len = s.len ∧ s.wires.typ = s.typ ∧ s.wires.stored = s.stored ∧ s.wires.cnt = s.cnt ∧
      s.wires.phase = s.phase.code ∧ s.wires.pos = s.pos ∧ s.wires.err = s.err.code ∧ s.wires.ephase = s.ephase.code ∧
      s.wires.done = s.done ∧ s.wires.tfull = s.tfull) ∧
    s.wires.crcO = s.acc ^^^ 0xFFFFFFFF#32 ∧
    (s.wires.fCritical = s.fCritical ∧ s.wires.fPublic = s.fPublic ∧ s.wires.fValid = s.fValid ∧
      s.wires.fSafe = s.fSafe) ∧
    (s.wires.errO = true ↔ s.wires.phase = 8#4) ∧ s.wires.doneO = s.done ∧
    (Phase.idle.code = 0#4 ∧ Phase.sLen.code = 1#4 ∧ Phase.sType.code = 2#4 ∧ Phase.sData.code = 3#4 ∧
      Phase.dLen.code = 4#4 ∧ Phase.dType.code = 5#4 ∧ Phase.dData.code = 6#4 ∧ Phase.dCrc.code = 7#4 ∧
      Phase.error.code = 8#4) ∧
    s.wires.phase.toNat ≤ 8

/-! ### Decoding -/

/-- 30_encoding R63: the word of each command; decoding an encoded command gives it back, and every word that decodes
to a command is its encoding. -/
def Obligations.DecodeInvertsEncode : Prop :=
  (encode .nop = 0x0000#16 ∧ encode .crci = 0x0100#16 ∧ (∀ b, encode (.crcb b) = 0x0200#16 ||| b.setWidth 16) ∧
    encode .crcr = 0x0300#16 ∧ encode .ser = 0x0400#16 ∧ encode .des = 0x0500#16 ∧
    (∀ b, encode (.put b) = 0x0600#16 ||| b.setWidth 16) ∧ encode .endInput = 0x0700#16 ∧ encode .clr = 0x0800#16) ∧
  (∀ i : Instr, decode (encode i) = .ok i) ∧ (∀ (w : CmdWord) (i : Instr), decode w = .ok i → encode i = w)

/-- 30_encoding R62: a word is the command of a row exactly when `(w & mask) == match`, and rows do not overlap. -/
def Obligations.DecodeFollowsTheMatchMaskRows : Prop :=
  (∀ (w : CmdWord) (i : Instr), decode w = .ok i → w &&& i.rowMask = i.rowMatch) ∧
  (∀ (w : CmdWord) (j : Instr), w &&& j.rowMask = j.rowMatch →
    ∃ i, decode w = .ok i ∧ i.rowMask = j.rowMask ∧ i.rowMatch = j.rowMatch) ∧
  (∀ (w : CmdWord) (i j : Instr), w &&& i.rowMask = i.rowMatch → w &&& j.rowMask = j.rowMatch →
    i.rowMask = j.rowMask ∧ i.rowMatch = j.rowMatch)

/-- 30_encoding R64: the illegal words are (a) those with opcode 0x09 to 0xFF and (b) those with a nonzero operand on a
command that has none; they raise IllegalCommand unless the block is in ERROR, where they are ignored. -/
def Obligations.IllegalWordsAreReservedAndRaise : Prop :=
  (∀ w : CmdWord, decode w = .error .reservedOpcode ↔ 9 ≤ w.toNat / 256) ∧
  (∀ w : CmdWord, decode w = .error .nonzeroOperand ↔
    (w.toNat / 256 ≤ 8 ∧ w.toNat / 256 ≠ 2 ∧ w.toNat / 256 ≠ 6 ∧ w.toNat % 256 ≠ 0)) ∧
  (∀ (w : CmdWord) (k : IllegalWord) (s : State), decode w = .error k → s.phase ≠ .error →
    execWord w s = .next { s with ephase := s.phase, err := .illegalCommand, phase := .error }) ∧
  (∀ (w : CmdWord) (k : IllegalWord) (s : State), decode w = .error k → s.phase = .error → execWord w s = .next s)

/-- 95_test_vectors V52, 30_encoding R63: words written out from the spec. -/
def Obligations.WordsOfTheSpecDecode : Prop :=
  decode 0x0000#16 = .ok .nop ∧ decode 0x0100#16 = .ok .crci ∧ decode 0x02FF#16 = .ok (.crcb 0xFF#8) ∧
  decode 0x0300#16 = .ok .crcr ∧ decode 0x0400#16 = .ok .ser ∧ decode 0x0500#16 = .ok .des ∧
  decode 0x0600#16 = .ok (.put 0x00#8) ∧ decode 0x06FF#16 = .ok (.put 0xFF#8) ∧ decode 0x0700#16 = .ok .endInput ∧
  decode 0x0800#16 = .ok .clr ∧ decode 0x0801#16 = .error .nonzeroOperand ∧ decode 0x0900#16 = .error .reservedOpcode ∧
  decode 0x8000#16 = .error .reservedOpcode ∧ decode 0xFFFF#16 = .error .reservedOpcode

/-- 30_encoding R67: a SERCHUNK of N data bytes expands to 1 + 8 + N commands, a DESCHUNK to 1 and one a byte
(44_control R155), and PUT32 sends the four bytes of `be32`. -/
def Obligations.PseudoInstructionsExpandAsListed : Prop :=
  (∀ v : Word, (Pseudo.put32 v).expand = (be32 v).map Instr.put) ∧
  (∀ bytes : List Byte, (Pseudo.puts bytes).expand = bytes.map Instr.put) ∧
  (∀ bytes : List Byte, (Pseudo.crcs bytes).expand = bytes.map Instr.crcb) ∧
  (∀ bytes : List Byte, (Pseudo.crcof bytes).expand = [.crci] ++ (Pseudo.crcs bytes).expand ++ [.crcr]) ∧
  (∀ typ data : List Byte, (Pseudo.serchunk typ data).wellFormed = true →
    (Pseudo.serchunk typ data).expand.length = 1 + 8 + data.length ∧
    (Pseudo.serchunk typ data).expand = .ser :: (be32 (BitVec.ofNat 32 data.length) ++ typ ++ data).map Instr.put) ∧
  (∀ bytes : List Byte, (Pseudo.deschunk bytes).expand = .des :: bytes.map Instr.put)

/-- 30_encoding R66: the text of a command, its operand as `0x` and two digits, is assembled back to that command. -/
def Obligations.AssemblerReadsTheCommandText : Prop := ∀ i : Instr, assemble i.toAsm = some i

/-! ### The step and its order of checks -/

/-- 44_control R156, 20_memory R41: where the host's next event is a word that decodes to a command, the step is that
command's meaning, after the word is consumed. -/
def Obligations.StepRunsTheDecodedCommand : Prop :=
  ∀ (s : State) (w : CmdWord) (rest : List HostEvent) (i : Instr),
    s.host = .command w :: rest → decode w = .ok i → step s = exec i { s with host := rest }

/-- 44_control R156, 60_exceptions R164, R166: where the next event is an illegal word, the step is IllegalCommand, or
nothing in ERROR, after the word is consumed. -/
def Obligations.StepOnAnIllegalWord : Prop :=
  ∀ (s : State) (w : CmdWord) (rest : List HostEvent) (k : IllegalWord),
    s.host = .command w :: rest → decode w = .error k →
      (s.phase ≠ .error →
        step s = .next { s with ephase := s.phase, err := .illegalCommand, phase := .error, host := rest }) ∧
      (s.phase = .error → step s = .next { s with host := rest })

/-- 44_control R156: `step` is total; no state is without a next state. With nothing presented the block holds its
registers (60_exceptions R174); that such a moment is a step of its own is the model's choice (log entry 2). -/
def Obligations.StepIsTotal : Prop :=
  (∀ s : State, ∃ t, step s = .next t) ∧ (∀ (w : CmdWord) (s : State), ∃ t, execWord w s = .next t) ∧
  (∀ s : State, s.host = [] → step s = .next s)

/-- 44_control R156: the order of all checks. -/
def Obligations.ChecksAreInTheOrderOfTheStepFunction : Prop :=
  ∀ (w : CmdWord) (s : State),
    execWord w s =
      if s.phase = .error then
        if decode w = .ok .clr then .next { State.reset with out := s.out, host := s.host } else .next s
      else match decode w with
        | .error _ => .next { s with ephase := s.phase, err := .illegalCommand, phase := .error }
        | .ok .nop => .next s
        | .ok .clr => .next { State.reset with out := s.out, host := s.host }
        | .ok .endInput => exec .endInput s
        | .ok (.put b) => exec (.put b) s
        | .ok i =>
          if s.phase = .idle then exec i s
          else .next { s with ephase := s.phase, err := .illegalCommand, phase := .error }

/-- 20_memory R41, R50: a step depends on the registers and the one current event only, not on what the host presents
later nor on what has been emitted; and it leaves the later events as they are. -/
def Obligations.StepDependsOnStateAndCurrentEventOnly : Prop :=
  ∀ (s : State) (ev : HostEvent), ∃ (t : State) (emitted : List Byte),
    ∀ (history : List Byte) (later : List HostEvent),
      step { s with out := history, host := ev :: later } = .next { t with out := history ++ emitted, host := later }

/-- 20_memory R42: OUT is append only, and which command emits how many bytes. -/
def Obligations.OutputIsAppendOnlyInTheStatedSizes : Prop :=
  ∀ (w : CmdWord) (s t : State), execWord w s = .next t →
    ∃ e : List Byte, t.out = s.out ++ e ∧
      (decode w = .ok .crcr → e = [] ∨ e = be32 (s.acc ^^^ 0xFFFFFFFF#32)) ∧
      (∀ b, decode w = .ok (.put b) →
        e = [] ∨ e = [b] ∨ (t.done = true ∧ (s.phase = .sType ∨ s.phase = .sData) ∧ e = b :: be32 t.stored)) ∧
      ((∀ b, decode w ≠ .ok (.put b)) → decode w ≠ .ok .crcr → e = [])

/-- 30_encoding R68: the table of legality by phase decides every word in every phase. -/
def Obligations.LegalityByPhaseDecidesEveryWord : Prop :=
  ∀ (w : CmdWord) (s t : State), execWord w s = .next t →
    match legality (decode w).toOption s.phase with
    | .ign => t = s
    | .ill => t = { s with ephase := s.phase, err := .illegalCommand, phase := .error }
    | .trunc => t = { s with ephase := s.phase, err := .truncated, phase := .error }
    | .ok =>
      (decode w = .ok .nop ∨ decode w = .ok .endInput → t = s) ∧
      (t.phase = .error → t.err = .invalidChunkType ∨ t.err = .checksumMismatch)

/-- 44_control R154: every phase transition is one of the table's. -/
def Obligations.PhaseMovesOnlyAsTheTransitionTableSays : Prop :=
  (∀ (w : CmdWord) (s t : State), execWord w s = .next t → t.phase = nextPhase s (decode w).toOption) ∧
  (∀ (s t : State) (ws : List CmdWord) (rest : List HostEvent), s.host = .reset ws :: rest → step s = .next t →
    t.phase = .idle)

/-! ### Control commands -/

/-- 44_control R150: NOP, 0x0000, writes nothing in every phase; 0x0001 to 0x00FF are illegal words. -/
def Obligations.NopChangesNothing : Prop :=
  decode 0x0000#16 = .ok .nop ∧ (∀ s : State, exec .nop s = .next s) ∧
  (∀ b : Byte, b ≠ 0#8 → decode (0x00#8 ++ b) = .error .nonzeroOperand)

/-- 44_control R151: CLR, 0x0800, in every phase gives every register its reset value and leaves OUT; 0x0801 to 0x08FF
are illegal words and do not clear an error. -/
def Obligations.ClrGivesEveryRegisterItsResetValue : Prop :=
  decode 0x0800#16 = .ok .clr ∧
  (∀ s : State, exec .clr s = .next
    { acc := 0xFFFFFFFF#32, len := 0#32, typ := 0#32, stored := 0#32, cnt := 0#32, phase := .idle, pos := 0#2,
      err := .none, ephase := .idle, done := false, tfull := false, out := s.out, host := s.host }) ∧
  (∀ b : Byte, b ≠ 0#8 → decode (0x08#8 ++ b) = .error .nonzeroOperand ∧
    ∀ s : State, s.phase = .error → execWord (0x08#8 ++ b) s = .next s)

/-- 44_control R152: END, 0x0700, does nothing in IDLE, is ignored in ERROR, and raises Truncated in any of the seven
phases of an operation; nothing else raises it. -/
def Obligations.EndOfInputIsTruncatedInsideAnOperation : Prop :=
  decode 0x0700#16 = .ok .endInput ∧
  (∀ s : State, s.phase = .idle → exec .endInput s = .next s) ∧
  (∀ s : State, s.phase = .error → exec .endInput s = .next s) ∧
  (∀ s : State, s.phase ≠ .idle → s.phase ≠ .error →
    exec .endInput s = .next { s with ephase := s.phase, err := .truncated, phase := .error }) ∧
  (∀ (w : CmdWord) (s t : State), s.phase ≠ .error → execWord w s = .next t → t.phase = .error → t.err = .truncated →
    decode w = .ok .endInput)

/-- 44_control R153: PUT b in IDLE raises IllegalCommand, in ERROR it is ignored. -/
def Obligations.PutOutsideAnOperation : Prop :=
  ∀ (b : Byte) (s : State),
    decode (0x06#8 ++ b) = .ok (.put b) ∧
    (s.phase = .idle →
      exec (.put b) s = .next { s with ephase := .idle, err := .illegalCommand, phase := .error }) ∧
    (s.phase = .error → exec (.put b) s = .next s)

/-! ### Raw CRC commands -/

/-- 41_crc32 R100: CRCI, 0x0100. -/
def Obligations.CrciPresetsAcc : Prop :=
  decode 0x0100#16 = .ok .crci ∧
  (∀ s : State, s.phase = .idle → exec .crci s = .next { s with acc := 0xFFFFFFFF#32 }) ∧
  (∀ s : State, s.phase = .error → exec .crci s = .next s) ∧
  (∀ s : State, s.phase ≠ .idle → s.phase ≠ .error →
    exec .crci s = .next { s with ephase := s.phase, err := .illegalCommand, phase := .error })

/-- 41_crc32 R101: CRCB b, 0x0200 + b. -/
def Obligations.CrcbFeedsOneByte : Prop :=
  (∀ b : Byte, decode (0x02#8 ++ b) = .ok (.crcb b)) ∧
  (∀ (b : Byte) (s : State), s.phase = .idle → exec (.crcb b) s = .next { s with acc := upd s.acc b }) ∧
  (∀ (b : Byte) (s : State), s.phase = .error → exec (.crcb b) s = .next s) ∧
  (∀ (b : Byte) (s : State), s.phase ≠ .idle → s.phase ≠ .error →
    exec (.crcb b) s = .next { s with ephase := s.phase, err := .illegalCommand, phase := .error })

/-- 41_crc32 R102: CRCR, 0x0300, emits the final value most significant byte first and writes no register. -/
def Obligations.CrcrEmitsTheFinalValue : Prop :=
  decode 0x0300#16 = .ok .crcr ∧
  (∀ (s : State) (b0 b1 b2 b3 : Byte), s.phase = .idle → s.acc ^^^ 0xFFFFFFFF#32 = fromBe32 b0 b1 b2 b3 →
    exec .crcr s = .next { s with out := s.out ++ [b0, b1, b2, b3] }) ∧
  (∀ s : State, s.phase = .error → exec .crcr s = .next s) ∧
  (∀ s : State, s.phase ≠ .idle → s.phase ≠ .error →
    exec .crcr s = .next { s with ephase := s.phase, err := .illegalCommand, phase := .error })

/-! ### The serializer -/

/-- 42_serializer R111: SER, 0x0400. -/
def Obligations.SerStartsSerializing : Prop :=
  decode 0x0400#16 = .ok .ser ∧
  (∀ s : State, s.phase = .idle → exec .ser s = .next
    { s with
      acc := 0xFFFFFFFF#32, len := 0#32, typ := 0#32, stored := 0#32, cnt := 0#32, pos := 0#2, done := false,
      tfull := false, phase := .sLen }) ∧
  (∀ s : State, s.phase = .error → exec .ser s = .next s) ∧
  (∀ s : State, s.phase ≠ .idle → s.phase ≠ .error →
    exec .ser s = .next { s with ephase := s.phase, err := .illegalCommand, phase := .error })

/-- 42_serializer R112: PUT b in S_LEN. -/
def Obligations.PutInSLenTakesALengthByte : Prop :=
  ∀ (b : Byte) (s : State), s.phase = .sLen →
    (s.pos = 3#2 → exec (.put b) s = .next
      { s with
        len := (s.len <<< 8) ||| b.setWidth 32, cnt := (s.len <<< 8) ||| b.setWidth 32, pos := 0#2, phase := .sType,
        out := s.out ++ [b] }) ∧
    (s.pos ≠ 3#2 → exec (.put b) s = .next
      { s with len := (s.len <<< 8) ||| b.setWidth 32, pos := s.pos + 1#2, out := s.out ++ [b] })

/-- 42_serializer R113 with R115: PUT b in S_TYPE; the fourth letter of a chunk of length 0 completes it. -/
def Obligations.PutInSTypeTakesATypeByte : Prop :=
  ∀ (b : Byte) (s : State), s.phase = .sType →
    (isLetter b = false → exec (.put b) s = .next
      { s with
        typ := (s.typ <<< 8) ||| b.setWidth 32, ephase := .sType, err := .invalidChunkType, phase := .error }) ∧
    (isLetter b = true → s.pos ≠ 3#2 → exec (.put b) s = .next
      { s with
        typ := (s.typ <<< 8) ||| b.setWidth 32, acc := upd s.acc b, pos := s.pos + 1#2, out := s.out ++ [b] }) ∧
    (isLetter b = true → s.pos = 3#2 → s.cnt ≠ 0#32 → exec (.put b) s = .next
      { s with
        typ := (s.typ <<< 8) ||| b.setWidth 32, acc := upd s.acc b, pos := 0#2, tfull := true, phase := .sData,
        out := s.out ++ [b] }) ∧
    (isLetter b = true → s.pos = 3#2 → s.cnt = 0#32 → exec (.put b) s = .next
      { s with
        typ := (s.typ <<< 8) ||| b.setWidth 32, acc := upd s.acc b, pos := 0#2, tfull := true, phase := .idle,
        stored := upd s.acc b ^^^ 0xFFFFFFFF#32, done := true,
        out := s.out ++ [b] ++ be32 (upd s.acc b ^^^ 0xFFFFFFFF#32) })

/-- 42_serializer R114 with R115: PUT b in S_DATA (`cnt` is at least 1 there); the last data byte completes the chunk. -/
def Obligations.PutInSDataTakesADataByte : Prop :=
  ∀ (b : Byte) (s : State), s.phase = .sData → 1#32 ≤ s.cnt →
    (s.cnt ≠ 1#32 → exec (.put b) s = .next
      { s with acc := upd s.acc b, cnt := s.cnt - 1#32, out := s.out ++ [b] }) ∧
    (s.cnt = 1#32 → exec (.put b) s = .next
      { s with
        acc := upd s.acc b, cnt := 0#32, stored := upd s.acc b ^^^ 0xFFFFFFFF#32, phase := .idle, done := true,
        out := s.out ++ [b] ++ be32 (upd s.acc b ^^^ 0xFFFFFFFF#32) })

/-- 42_serializer R110: the size of a serialized chunk, its layout, and that it is injective in type and data. -/
def Obligations.SerializeHasTheLayoutAndIsInjective : Prop :=
  (∀ t d : List Byte, serialize t d = be32 (BitVec.ofNat 32 d.length) ++ t ++ d ++ be32 (crc32 (t ++ d))) ∧
  (∀ t d : List Byte, t.length = 4 → (serialize t d).length = 12 + d.length) ∧
  (∀ t d t' d' : List Byte, t.length = 4 → t'.length = 4 → d.length ≤ Config.maxLen → d'.length ≤ Config.maxLen →
    serialize t d = serialize t' d' → t = t' ∧ d = d')

/-- 42_serializer R116: SERCHUNK, run step by step from any reachable state in IDLE, appends exactly `serialize(t, d)`
to OUT and ends as the rule says. -/
def Obligations.SerializationTheorem : Prop :=
  ∀ (s : State) (t0 t1 t2 t3 : Byte) (d : List Byte) (rest : List HostEvent),
    s.phase = .idle → ControlInv s → isChunkType [t0, t1, t2, t3] = true → d.length ≤ Config.maxLen →
    s.host = presented (Pseudo.serchunk [t0, t1, t2, t3] d).expand ++ rest →
    Host.Core.run core (1 + 4 + 4 + d.length) s = .next
      { acc := crc32 ([t0, t1, t2, t3] ++ d) ^^^ 0xFFFFFFFF#32, len := BitVec.ofNat 32 d.length,
        typ := fromBe32 t0 t1 t2 t3, stored := crc32 ([t0, t1, t2, t3] ++ d), cnt := 0#32, phase := .idle, pos := 0#2,
        err := .none, ephase := .idle, done := true, tfull := true,
        out := s.out ++ serialize [t0, t1, t2, t3] d, host := rest }

/-! ### The deserializer -/

/-- 43_deserializer R131: DES, 0x0500. -/
def Obligations.DesStartsDeserializing : Prop :=
  decode 0x0500#16 = .ok .des ∧
  (∀ s : State, s.phase = .idle → exec .des s = .next
    { s with
      acc := 0xFFFFFFFF#32, len := 0#32, typ := 0#32, stored := 0#32, cnt := 0#32, pos := 0#2, done := false,
      tfull := false, phase := .dLen }) ∧
  (∀ s : State, s.phase = .error → exec .des s = .next s) ∧
  (∀ s : State, s.phase ≠ .idle → s.phase ≠ .error →
    exec .des s = .next { s with ephase := s.phase, err := .illegalCommand, phase := .error })

/-- 43_deserializer R132: PUT b in D_LEN. -/
def Obligations.PutInDLenTakesALengthByte : Prop :=
  ∀ (b : Byte) (s : State), s.phase = .dLen →
    (s.pos = 3#2 → exec (.put b) s = .next
      { s with
        len := (s.len <<< 8) ||| b.setWidth 32, cnt := (s.len <<< 8) ||| b.setWidth 32, pos := 0#2, phase := .dType }) ∧
    (s.pos ≠ 3#2 → exec (.put b) s = .next
      { s with len := (s.len <<< 8) ||| b.setWidth 32, pos := s.pos + 1#2 })

/-- 43_deserializer R133: PUT b in D_TYPE. -/
def Obligations.PutInDTypeTakesATypeByte : Prop :=
  ∀ (b : Byte) (s : State), s.phase = .dType →
    (isLetter b = false → exec (.put b) s = .next
      { s with
        typ := (s.typ <<< 8) ||| b.setWidth 32, ephase := .dType, err := .invalidChunkType, phase := .error }) ∧
    (isLetter b = true → s.pos ≠ 3#2 → exec (.put b) s = .next
      { s with typ := (s.typ <<< 8) ||| b.setWidth 32, acc := upd s.acc b, pos := s.pos + 1#2 }) ∧
    (isLetter b = true → s.pos = 3#2 → s.cnt ≠ 0#32 → exec (.put b) s = .next
      { s with
        typ := (s.typ <<< 8) ||| b.setWidth 32, acc := upd s.acc b, pos := 0#2, tfull := true, phase := .dData }) ∧
    (isLetter b = true → s.pos = 3#2 → s.cnt = 0#32 → exec (.put b) s = .next
      { s with
        typ := (s.typ <<< 8) ||| b.setWidth 32, acc := upd s.acc b, pos := 0#2, tfull := true, phase := .dCrc })

/-- 43_deserializer R134: PUT b in D_DATA (`cnt` is at least 1 there). -/
def Obligations.PutInDDataTakesADataByte : Prop :=
  ∀ (b : Byte) (s : State), s.phase = .dData → 1#32 ≤ s.cnt →
    (s.cnt ≠ 1#32 → exec (.put b) s = .next
      { s with acc := upd s.acc b, cnt := s.cnt - 1#32, out := s.out ++ [b] }) ∧
    (s.cnt = 1#32 → exec (.put b) s = .next
      { s with acc := upd s.acc b, cnt := 0#32, phase := .dCrc, out := s.out ++ [b] })

/-- 43_deserializer R135: PUT b in D_CRC; the fourth byte gives the verdict. -/
def Obligations.PutInDCrcTakesAChecksumByte : Prop :=
  ∀ (b : Byte) (s : State), s.phase = .dCrc →
    (s.pos ≠ 3#2 → exec (.put b) s = .next
      { s with stored := (s.stored <<< 8) ||| b.setWidth 32, pos := s.pos + 1#2 }) ∧
    (s.pos = 3#2 → (s.stored <<< 8) ||| b.setWidth 32 = s.acc ^^^ 0xFFFFFFFF#32 → exec (.put b) s = .next
      { s with stored := (s.stored <<< 8) ||| b.setWidth 32, pos := 0#2, phase := .idle, done := true }) ∧
    (s.pos = 3#2 → (s.stored <<< 8) ||| b.setWidth 32 ≠ s.acc ^^^ 0xFFFFFFFF#32 → exec (.put b) s = .next
      { s with
        stored := (s.stored <<< 8) ||| b.setWidth 32, ephase := .dCrc, err := .checksumMismatch, phase := .error })

/-- 43_deserializer R136: a DES session on the available bytes ends as `deserialize` says: in IDLE with `done` = 1 and
the stated registers, output and remaining bytes for `Ok`, in ERROR with that error and the stated output for an error. -/
def Obligations.DeserializationTheorem : Prop :=
  ∀ (s : State) (bytes : List Byte), s.phase = .idle → ControlInv s →
    match deserialize bytes with
    | .ok t d c rest =>
      c = crc32 (t ++ d) ∧ bytes.length = 12 + d.length + rest.length ∧
      ∃ u : State, desSession bytes s = .next (u, rest) ∧ u.phase = .idle ∧ u.done = true ∧ u.out = s.out ++ d ∧
        u.len = BitVec.ofNat 32 d.length ∧ be32 u.typ = t ∧ u.stored = c ∧ u.acc = c ^^^ 0xFFFFFFFF#32 ∧
        u.tfull = true ∧ u.err = .none
    | .error e =>
      ∃ (u : State) (rest : List Byte), desSession bytes s = .next (u, rest) ∧ u.phase = .error ∧ u.err = e.errCode ∧
        u.out = s.out ++ (if e = .invalidChunkType then [] else (bytes.drop 8).take (declaredLength bytes))

/-- 43_deserializer R136, last sentence, and 60_exceptions R176: the verdict comes at the earliest command at which
`deserialize` is decided: the bytes taken decide it, and no shorter prefix does; Truncated takes all the bytes. -/
def Obligations.VerdictComesAtTheEarliestByte : Prop :=
  ∀ (s u : State) (bytes rest : List Byte), s.phase = .idle → ControlInv s → desSession bytes s = .next (u, rest) →
    ∃ taken : List Byte, bytes = taken ++ rest ∧
      (deserialize bytes = .error .truncated → rest = []) ∧
      (deserialize bytes ≠ .error .truncated →
        deserialize taken ≠ .error .truncated ∧
        ∀ shorter : List Byte, shorter <+: taken → shorter ≠ taken → deserialize shorter = .error .truncated)

/-- 43_deserializer R137: the round trip, of the functions and of the hardware. -/
def Obligations.RoundTripOfSerializeAndDes : Prop :=
  ∀ (s : State) (t0 t1 t2 t3 : Byte) (d : List Byte),
    isChunkType [t0, t1, t2, t3] = true → d.length ≤ Config.maxLen →
    deserialize (serialize [t0, t1, t2, t3] d) = .ok [t0, t1, t2, t3] d (crc32 ([t0, t1, t2, t3] ++ d)) [] ∧
    (s.phase = .idle → ControlInv s →
      ∃ u : State, desSession (serialize [t0, t1, t2, t3] d) s = .next (u, []) ∧ u.done = true ∧
        u.len = BitVec.ofNat 32 d.length ∧ u.typ = fromBe32 t0 t1 t2 t3 ∧
        u.stored = crc32 ([t0, t1, t2, t3] ++ d) ∧ u.out = s.out ++ d)

/-- 43_deserializer R138, the type, data and checksum rows: one byte of a serialized chunk replaced by a different one. -/
def Obligations.OneWrongByteIsRefused : Prop :=
  ∀ (s : State) (t0 t1 t2 t3 : Byte) (d : List Byte) (k : Nat) (b : Byte),
    s.phase = .idle → ControlInv s → isChunkType [t0, t1, t2, t3] = true → d.length ≤ Config.maxLen →
    4 ≤ k → k < 12 + d.length → (serialize [t0, t1, t2, t3] d)[k]? ≠ some b →
    ∃ (u : State) (rest : List Byte),
      desSession ((serialize [t0, t1, t2, t3] d).set k b) s = .next (u, rest) ∧ u.phase = .error ∧
      u.err = if k < 8 ∧ isLetter b = false then .invalidChunkType else .checksumMismatch

/-- 43_deserializer R138, the length row: a longer declared length ends in Truncated; a shorter one in ChecksumMismatch
unless the four bytes after the shorter data equal its CRC, and the bytes of the difference are left over. -/
def Obligations.OneWrongLengthByte : Prop :=
  ∀ (s : State) (t0 t1 t2 t3 : Byte) (d : List Byte) (k : Nat) (b : Byte) (n : Nat),
    s.phase = .idle → ControlInv s → isChunkType [t0, t1, t2, t3] = true → d.length ≤ Config.maxLen → k < 4 →
    declaredLength ((serialize [t0, t1, t2, t3] d).set k b) = n →
    (d.length < n → ∃ u : State, desSession ((serialize [t0, t1, t2, t3] d).set k b) s = .next (u, []) ∧
      u.phase = .error ∧ u.err = .truncated) ∧
    (n < d.length → ∃ (u : State) (rest : List Byte),
      desSession ((serialize [t0, t1, t2, t3] d).set k b) s = .next (u, rest) ∧ rest.length = d.length - n ∧
      if ((d ++ be32 (crc32 ([t0, t1, t2, t3] ++ d))).drop n).take 4 = be32 (crc32 ([t0, t1, t2, t3] ++ d.take n)) then
        u.phase = .idle ∧ u.done = true
      else u.phase = .error ∧ u.err = .checksumMismatch)

/-! ### Errors -/

/-- 60_exceptions R160: the codes, and for each error its cause and the information recorded. -/
def Obligations.EachErrorHasItsCauseAndEvidence : Prop :=
  (ErrCode.none.code = 0#4 ∧ ErrCode.invalidChunkType.code = 1#4 ∧ ErrCode.checksumMismatch.code = 2#4 ∧
    ErrCode.truncated.code = 3#4 ∧ ErrCode.illegalCommand.code = 4#4) ∧
  (∀ (w : CmdWord) (s t : State), s.phase ≠ .error → execWord w s = .next t → t.phase = .error →
    t.ephase = s.phase ∧
    match t.err with
    | .none => False
    | .invalidChunkType =>
      ∃ b, decode w = .ok (.put b) ∧ (s.phase = .sType ∨ s.phase = .dType) ∧ isLetter b = false ∧
        t.typ.extractLsb' 0 8 = b ∧ t.pos = s.pos
    | .checksumMismatch =>
      ∃ b, decode w = .ok (.put b) ∧ s.phase = .dCrc ∧ s.pos = 3#2 ∧ t.pos = 3#2 ∧ t.stored ≠ t.crcO ∧ t.acc = s.acc ∧
        t.len = s.len ∧ t.typ = s.typ
    | .truncated =>
      decode w = .ok .endInput ∧ s.phase.inOperation = true ∧ t.pos = s.pos ∧ t.cnt = s.cnt
    | .illegalCommand =>
      (∃ k, decode w = .error k) ∨ (∃ i, decode w = .ok i ∧ legality (some i) s.phase = .ill))

/-- 60_exceptions R164: IllegalCommand is raised, outside ERROR, by an illegal word, by CRCI, CRCB, CRCR, SER or DES in
any phase but IDLE, and by PUT in IDLE, and by nothing else. -/
def Obligations.IllegalCommandIsRaisedExactlyWhenStated : Prop :=
  ∀ (w : CmdWord) (s t : State), s.phase ≠ .error → execWord w s = .next t →
    ((t.phase = .error ∧ t.err = .illegalCommand) ↔
      match decode w with
      | .error _ => True
      | .ok (.put _) => s.phase = .idle
      | .ok .crci | .ok (.crcb _) | .ok .crcr | .ok .ser | .ok .des => s.phase ≠ .idle
      | .ok .nop | .ok .endInput | .ok .clr => False)

/-- 60_exceptions R165: error entry writes `ephase`, `err` and `phase`, with only `typ` (a rejected type byte) or
`stored` (a failed compare) written before it; everything else is kept and nothing is emitted. -/
def Obligations.ErrorEntryKeepsTheEvidence : Prop :=
  ∀ (w : CmdWord) (s t : State), s.phase ≠ .error → execWord w s = .next t → t.phase = .error →
    t.err ≠ .none ∧
    (t = { s with ephase := s.phase, err := t.err, phase := .error } ∨
     (∃ b, decode w = .ok (.put b) ∧ t.err = .invalidChunkType ∧
       t = { s with
         ephase := s.phase, err := .invalidChunkType, phase := .error, typ := (s.typ <<< 8) ||| b.setWidth 32 }) ∨
     (∃ b, decode w = .ok (.put b) ∧ t.err = .checksumMismatch ∧
       t = { s with
         ephase := s.phase, err := .checksumMismatch, phase := .error,
         stored := (s.stored <<< 8) ||| b.setWidth 32 }))

/-- 60_exceptions R166: in ERROR every word but 0x0800 leaves the state as it is, `err_o` is 1, and an operation that
ended in ERROR has `done` = 0. -/
def Obligations.ErrorPhaseIgnoresEverythingButClr : Prop :=
  (∀ (w : CmdWord) (s : State), s.phase = .error → w ≠ 0x0800#16 → execWord w s = .next s) ∧
  (∀ s : State, s.phase = .error → s.errO = true) ∧
  (∀ (w : CmdWord) (s t : State), ControlInv s → s.phase.inOperation = true → execWord w s = .next t →
    t.phase = .error → t.done = false)

/-- 60_exceptions R167: ERROR is left only by the command CLR and by reset, and both put every register at its reset
value. -/
def Obligations.ErrorIsLeftOnlyByClrOrReset : Prop :=
  ∀ s t : State, s.phase = .error → step s = .next t → t.phase ≠ .error →
    (∃ rest, s.host = .command 0x0800#16 :: rest ∨ ∃ ws, s.host = .reset ws :: rest) ∧ AtResetValues t

/-! ### The CRC -/

/-- 41_crc32 R91: the bit step, its linearity and that it is a bijection. -/
def Obligations.BitstepIsALinearBijection : Prop :=
  (∀ c : Word, bitstep c = if c.getLsbD 0 = true then (c >>> 1) ^^^ 0xEDB88320#32 else c >>> 1) ∧
  (∀ c d : Word, bitstep (c ^^^ d) = bitstep c ^^^ bitstep d) ∧ bitstep 0#32 = 0#32 ∧
  (∀ c : Word, (bitstep c).getLsbD 31 = c.getLsbD 0) ∧ Function.Bijective bitstep

/-- 41_crc32 R96, 20_memory R44: the printed table is `bitstep` applied 8 times to each index, and the ROM has no other
address and no other width. -/
def Obligations.RomHoldsTheTableOfTheBitStep : Prop :=
  (∀ n : Fin 256, romRead (4 * n.val) 4 =
    some (bitstep (bitstep (bitstep (bitstep (bitstep (bitstep (bitstep (bitstep (BitVec.ofNat 32 n.val)))))))))) ∧
  (∀ addr n : Nat, romRead addr n ≠ none → n = 4 ∧ addr % 4 = 0 ∧ addr / 4 ≤ 255)

/-- 41_crc32 R97: the table form of the update equals the bit-serial form. -/
def Obligations.TableFormEqualsBitSerialUpdate : Prop :=
  ∀ (a : Word) (b : Byte),
    some (upd a b ^^^ (a >>> 8)) = romRead (4 * ((a ^^^ b.setWidth 32).extractLsb' 0 8).toNat) 4 ∧
    upd a b = updTable a b

/-- 41_crc32 R99: CRCR does not disturb `acc`, so feeding may continue after it. -/
def Obligations.CrcContinuesAfterRead : Prop :=
  ∀ (s : State) (first second : List Byte) (rest : List HostEvent), s.phase = .idle →
    s.host = presented ([.crci] ++ (Pseudo.crcs first).expand ++ [.crcr] ++ (Pseudo.crcs second).expand ++ [.crcr]) ++ rest →
    Host.Core.run core (3 + first.length + second.length) s = .next
      { s with
        acc := crc32 (first ++ second) ^^^ 0xFFFFFFFF#32,
        out := s.out ++ be32 (crc32 first) ++ be32 (crc32 (first ++ second)), host := rest }

/-- 41_crc32 R103: two sequences of the same length that differ in exactly one position have different CRCs. -/
def Obligations.OneChangedByteChangesTheCrc : Prop :=
  ∀ (before after : List Byte) (x y : Byte), x ≠ y → crc32 (before ++ x :: after) ≠ crc32 (before ++ y :: after)

/-- 40_chunk_type R80: `is_letter` accepts exactly A to Z and a to z, 52 of the 256 bytes. -/
def Obligations.IsLetterAcceptsTheAsciiLetters : Prop :=
  (∀ b : Byte, isLetter b = true ↔
    (0x41 ≤ b.toNat ∧ b.toNat ≤ 0x5A) ∨ (0x61 ≤ b.toNat ∧ b.toNat ≤ 0x7A)) ∧
  ((List.range 256).filter (fun n => isLetter (BitVec.ofNat 8 n))).length = 52

/-! ### Invariants and whole-machine rules -/

/-- 10_state R34 clauses 1 to 6: every step keeps the invariant of the control state. -/
def Obligations.EveryStepKeepsTheControlInvariant : Prop :=
  ∀ s t : State, ControlInv s → step s = .next t → ControlInv t

/-- 10_state R34 clause 7: every step keeps it that `acc` is the preset updated by exactly the type and data bytes
taken so far. -/
def Obligations.EveryStepKeepsTheCrcInvariant : Prop :=
  ∀ s t : State, ControlInv s → CrcTracks s → step s = .next t → CrcTracks t

/-- 10_state R30: every step keeps it that while `tfull` = 1 the register `typ` is a valid ChunkType. -/
def Obligations.EveryStepKeepsTheTypeLetters : Prop :=
  ∀ s t : State, ControlInv s → TypeIsLetters s → step s = .next t → TypeIsLetters t

/-- 10_state R34: the invariants hold after reset. -/
def Obligations.ResetMeetsTheInvariants : Prop :=
  ControlInv State.reset ∧ CrcTracks State.reset ∧ TypeIsLetters State.reset

/-- 10_state R29, 60_exceptions R176: `done` is set only by the PUT that completes an operation without error, and
cleared only by SER, DES and CLR (and reset). -/
def Obligations.DoneIsSetOnlyBySuccess : Prop :=
  (∀ (w : CmdWord) (s t : State), execWord w s = .next t → s.done = false → t.done = true →
    ∃ b, decode w = .ok (.put b) ∧
      ((s.phase = .sType ∧ s.pos = 3#2 ∧ s.cnt = 0#32 ∧ isLetter b = true) ∨ (s.phase = .sData ∧ s.cnt = 1#32) ∨
       (s.phase = .dCrc ∧ s.pos = 3#2 ∧ (s.stored <<< 8) ||| b.setWidth 32 = s.crcO))) ∧
  (∀ (w : CmdWord) (s t : State), execWord w s = .next t → s.done = true → t.done = false →
    decode w = .ok .ser ∨ decode w = .ok .des ∨ decode w = .ok .clr)

/-- 10_state R26, R29, 43_deserializer R136: at the step that sets `done`, `stored` is the CRC of the type code and the
`len` data bytes, which after a DES are the last bytes of OUT, and after a SER the ones before the checksum there. -/
def Obligations.CompletionMeansTheChecksumIsRight : Prop :=
  ∀ (w : CmdWord) (s t : State), ControlInv s → CrcTracks s → execWord w s = .next t → s.done = false → t.done = true →
    t.stored = fin t.acc ∧
    ∃ before data : List Byte, data.length = t.len.toNat ∧ t.stored = crc32 (be32 t.typ ++ data) ∧
      (s.phase = .dCrc → t.out = before ++ data) ∧ (s.phase ≠ .dCrc → t.out = before ++ data ++ be32 t.stored)

/-- 40_chunk_type R86: `typ` does not change from the step that sets `tfull` until SER, DES, CLR or reset; only those
clear `tfull`. -/
def Obligations.CompleteTypeIsImmutable : Prop :=
  ∀ (w : CmdWord) (s t : State), ControlInv s → execWord w s = .next t → s.tfull = true →
    (decode w ≠ .ok .ser → decode w ≠ .ok .des → decode w ≠ .ok .clr → t.tfull = true ∧ t.typ = s.typ)

/-- 10_state R31: SER and DES from IDLE open an operation at stream position 0, and a PUT that leaves the operation open
moves the position on by exactly one byte. -/
def Obligations.StreamPositionAdvancesByOnePerPut : Prop :=
  (∀ s : State, s.phase = .idle →
    (∃ t, exec .ser s = .next t ∧ t.phase.inOperation = true ∧ t.offset = some 0) ∧
    (∃ t, exec .des s = .next t ∧ t.phase.inOperation = true ∧ t.offset = some 0)) ∧
  (∀ (b : Byte) (s t : State), ControlInv s → s.phase.inOperation = true → exec (.put b) s = .next t →
    t.phase.inOperation = true → ∃ k, s.offset = some k ∧ t.offset = some (k + 1))

/-- 20_memory R48, R98: which field each byte of a serialized chunk belongs to. -/
def Obligations.LayoutMapOfASerializedChunk : Prop :=
  ∀ (t d : List Byte) (k : Nat), t.length = 4 → d.length ≤ Config.maxLen →
    match fieldAt d.length k with
    | some .length => (serialize t d)[k]? = (be32 (BitVec.ofNat 32 d.length))[k]?
    | some .type => (serialize t d)[k]? = t[k - 4]?
    | some .data => (serialize t d)[k]? = d[k - 8]?
    | some .checksum => (serialize t d)[k]? = (be32 (crc32 (t ++ d)))[k - (8 + d.length)]?
    | none => (serialize t d)[k]? = none
end

