-- ==== Sys2Proof/Laws/Bytes.lean ====
section
/-! SUPPORT. Big-endian conversion and byte-by-byte assembly (00_scope R8, 10_state R22, R23, R26), and the CRC of
appended sequences. -/

namespace Sys2Proof.Machine

@[simp] theorem be32_length (v : Word) : (be32 v).length = 4 := rfl

/-- A 32-bit equality from its four bytes. -/
theorem word_ext_bytes {v w : Word}
    (h3 : v.extractLsb' 24 8 = w.extractLsb' 24 8) (h2 : v.extractLsb' 16 8 = w.extractLsb' 16 8)
    (h1 : v.extractLsb' 8 8 = w.extractLsb' 8 8) (h0 : v.extractLsb' 0 8 = w.extractLsb' 0 8) : v = w := by
  apply BitVec.eq_of_getLsbD_eq
  intro i hi
  have bit (k : Nat) (hk : v.extractLsb' k 8 = w.extractLsb' k 8) (h : k ≤ i) (h' : i < k + 8) :
      v.getLsbD i = w.getLsbD i := by
    have := congrArg (fun x => x.getLsbD (i - k)) hk
    have h8 : i - k < 8 := by omega
    have hik : k + (i - k) = i := by omega
    simpa [BitVec.getLsbD_extractLsb', h8, hik] using this
  rcases Nat.lt_or_ge i 8 with h | h
  · exact bit 0 h0 (by omega) (by omega)
  rcases Nat.lt_or_ge i 16 with h | h
  · exact bit 8 h1 (by omega) (by omega)
  rcases Nat.lt_or_ge i 24 with h | h
  · exact bit 16 h2 (by omega) (by omega)
  · exact bit 24 h3 (by omega) (by omega)

/-- The four bytes determine the word. -/
theorem be32_injective {v w : Word} (h : be32 v = be32 w) : v = w := by
  simp only [be32, List.cons.injEq, and_true] at h
  exact word_ext_bytes h.1 h.2.1 h.2.2.1 h.2.2.2

@[simp] theorem be32_fromBe32 (b0 b1 b2 b3 : Byte) : be32 (fromBe32 b0 b1 b2 b3) = [b0, b1, b2, b3] := by
  simp only [be32, fromBe32, List.cons.injEq, and_true]
  refine ⟨?_, ?_, ?_, ?_⟩
  all_goals
    (apply BitVec.eq_of_getLsbD_eq
     intro i hi
     simp only [BitVec.getLsbD_extractLsb', hi, decide_true, Bool.true_and, BitVec.getLsbD_append]
     repeat' split
     all_goals first | omega | (congr 1; omega))

/-- Every word is the assembly of its bytes. -/
theorem eq_fromBe32 {v : Word} {b0 b1 b2 b3 : Byte} (h : be32 v = [b0, b1, b2, b3]) : v = fromBe32 b0 b1 b2 b3 :=
  be32_injective (by rw [h, be32_fromBe32])

/-- Shifting a byte in drops the first byte and adds the new one behind (R22, R23, R26). -/
theorem be32_shiftIn (r : Word) (b : Byte) : be32 (shiftIn r b) = (be32 r).drop 1 ++ [b] := by
  simp only [be32, shiftIn, zext32, List.drop_succ_cons, List.drop_zero, List.cons_append, List.nil_append,
    List.cons.injEq, and_true]
  refine ⟨?_, ?_, ?_, ?_⟩ <;>
    (apply BitVec.eq_of_getLsbD_eq
     intro i hi
     simp only [BitVec.getLsbD_extractLsb', hi, decide_true, Bool.true_and, BitVec.getLsbD_or,
       BitVec.getLsbD_shiftLeft, BitVec.getLsbD_setWidth])
  · have h1 : 24 + i < 32 := by omega
    have h2 : ¬ 24 + i < 8 := by omega
    have h3 : 24 + i - 8 = 16 + i := by omega
    simp [h1, h2, h3, BitVec.getLsbD_of_ge b (24 + i) (by omega)]
  · have h1 : 16 + i < 32 := by omega
    have h2 : ¬ 16 + i < 8 := by omega
    have h3 : 16 + i - 8 = 8 + i := by omega
    simp [h1, h2, h3, BitVec.getLsbD_of_ge b (16 + i) (by omega)]
  · have h1 : 8 + i < 32 := by omega
    simp [h1]
  · have h1 : i < 32 := by omega
    simp [hi, h1]

/-- Four bytes shifted in are the big-endian value, whatever the register held. -/
theorem shiftIn_four (r : Word) (b0 b1 b2 b3 : Byte) :
    shiftIn (shiftIn (shiftIn (shiftIn r b0) b1) b2) b3 = fromBe32 b0 b1 b2 b3 :=
  be32_injective (by rw [be32_fromBe32, be32_shiftIn, be32_shiftIn, be32_shiftIn, be32_shiftIn]; rfl)

/-- The byte shifted in last is in bits 7:0. -/
@[simp] theorem shiftIn_lowByte (r : Word) (b : Byte) : (shiftIn r b).extractLsb' 0 8 = b := by
  have h := be32_shiftIn r b
  simp only [be32, List.drop_succ_cons, List.drop_zero, List.cons_append, List.nil_append, List.cons.injEq,
    and_true] at h
  exact h.2.2.2

@[simp] theorem updAll_nil (a : Word) : updAll a [] = a := rfl

@[simp] theorem updAll_cons (a : Word) (b : Byte) (bs : List Byte) : updAll a (b :: bs) = updAll (upd a b) bs := rfl

/-- Feeding `s` then `u` is feeding `s ++ u`. -/
theorem updAll_append (a : Word) (s u : List Byte) : updAll a (s ++ u) = updAll (updAll a s) u :=
  List.foldl_append

/-- The final XOR undoes itself (R94). -/
@[simp] theorem fin_fin (a : Word) : fin (fin a) = a := by simp [fin]

/-- The final XOR loses nothing (R94). -/
theorem fin_injective {a b : Word} (h : fin a = fin b) : a = b := by rw [← fin_fin a, h, fin_fin]

end Sys2Proof.Machine
end

