-- ==== Sys2Proof/Laws/Fields.lean ====
section
/-! SUPPORT. The fields of a command word and the word of its fields are inverse (30_encoding R60), and what the decoder
answers as a function of the two fields. -/

namespace Sys2Proof

@[simp] theorem ofWord_toWord (f : C16) : C16.ofWord f.toWord = f := by
  obtain ⟨a, b⟩ := f
  simp only [C16.ofWord, C16.toWord, C16.mk.injEq]
  constructor
  · apply BitVec.eq_of_getLsbD_eq
    intro i hi
    have h1 : ¬ 8 + i < 8 := by omega
    have h2 : 8 + i - 8 = i := by omega
    rw [BitVec.getLsbD_extractLsb', BitVec.getLsbD_append, if_neg h1, h2]
    simp [hi]
  · apply BitVec.eq_of_getLsbD_eq
    intro i hi
    have h1 : 0 + i < 8 := by omega
    rw [BitVec.getLsbD_extractLsb', BitVec.getLsbD_append, if_pos h1, Nat.zero_add]
    simp [hi]

@[simp] theorem toWord_ofWord (w : CmdWord) : (C16.ofWord w).toWord = w := by
  apply BitVec.eq_of_getLsbD_eq
  intro i hi
  simp only [C16.ofWord, C16.toWord, BitVec.getLsbD_append, BitVec.getLsbD_extractLsb']
  split
  · rename_i h
    simp [h]
  · have h1 : i - 8 < 8 := by omega
    have h2 : 8 + (i - 8) = i := by omega
    rw [h2]
    simp [h1]

/-- The decoder as a function of the fields (R63). -/
theorem decode_toWord (f : C16) : decode f.toWord =
    if f.op = 0x02#8 then .ok (.crcb f.b)
    else if f.op = 0x06#8 then .ok (.put f.b)
    else if f.b = 0x00#8 then
      if f.op = 0x00#8 then .ok .nop
      else if f.op = 0x01#8 then .ok .crci
      else if f.op = 0x03#8 then .ok .crcr
      else if f.op = 0x04#8 then .ok .ser
      else if f.op = 0x05#8 then .ok .des
      else if f.op = 0x07#8 then .ok .endInput
      else if f.op = 0x08#8 then .ok .clr
      else .error .reservedOpcode
    else if f.opcodeKnown then .error .nonzeroOperand
    else .error .reservedOpcode := by
  simp only [decode, ofWord_toWord]

end Sys2Proof
end

