-- ==== Sys2Proof/Laws/State.lean ====
section
/-! SUPPORT. One lemma per field of State per update, so that no later proof unfolds a record update. -/

namespace Sys2Proof.Machine

/-! ### `emit`: only OUT grows -/

@[simp] theorem emit_acc (bytes : List Byte) (s : State) : (emit bytes s).acc = s.acc := rfl
@[simp] theorem emit_len (bytes : List Byte) (s : State) : (emit bytes s).len = s.len := rfl
@[simp] theorem emit_typ (bytes : List Byte) (s : State) : (emit bytes s).typ = s.typ := rfl
@[simp] theorem emit_stored (bytes : List Byte) (s : State) : (emit bytes s).stored = s.stored := rfl
@[simp] theorem emit_cnt (bytes : List Byte) (s : State) : (emit bytes s).cnt = s.cnt := rfl
@[simp] theorem emit_phase (bytes : List Byte) (s : State) : (emit bytes s).phase = s.phase := rfl
@[simp] theorem emit_pos (bytes : List Byte) (s : State) : (emit bytes s).pos = s.pos := rfl
@[simp] theorem emit_err (bytes : List Byte) (s : State) : (emit bytes s).err = s.err := rfl
@[simp] theorem emit_ephase (bytes : List Byte) (s : State) : (emit bytes s).ephase = s.ephase := rfl
@[simp] theorem emit_done (bytes : List Byte) (s : State) : (emit bytes s).done = s.done := rfl
@[simp] theorem emit_tfull (bytes : List Byte) (s : State) : (emit bytes s).tfull = s.tfull := rfl
@[simp] theorem emit_out (bytes : List Byte) (s : State) : (emit bytes s).out = s.out ++ bytes := rfl
@[simp] theorem emit_host (bytes : List Byte) (s : State) : (emit bytes s).host = s.host := rfl

/-! ### `raise`: error entry (R165) -/

@[simp] theorem raise_acc (e : ErrCode) (s : State) : (raise e s).acc = s.acc := rfl
@[simp] theorem raise_len (e : ErrCode) (s : State) : (raise e s).len = s.len := rfl
@[simp] theorem raise_typ (e : ErrCode) (s : State) : (raise e s).typ = s.typ := rfl
@[simp] theorem raise_stored (e : ErrCode) (s : State) : (raise e s).stored = s.stored := rfl
@[simp] theorem raise_cnt (e : ErrCode) (s : State) : (raise e s).cnt = s.cnt := rfl
@[simp] theorem raise_phase (e : ErrCode) (s : State) : (raise e s).phase = .error := rfl
@[simp] theorem raise_pos (e : ErrCode) (s : State) : (raise e s).pos = s.pos := rfl
@[simp] theorem raise_err (e : ErrCode) (s : State) : (raise e s).err = e := rfl
@[simp] theorem raise_ephase (e : ErrCode) (s : State) : (raise e s).ephase = s.phase := rfl
@[simp] theorem raise_done (e : ErrCode) (s : State) : (raise e s).done = s.done := rfl
@[simp] theorem raise_tfull (e : ErrCode) (s : State) : (raise e s).tfull = s.tfull := rfl
@[simp] theorem raise_out (e : ErrCode) (s : State) : (raise e s).out = s.out := rfl
@[simp] theorem raise_host (e : ErrCode) (s : State) : (raise e s).host = s.host := rfl

/-! ### `resetRegs`: CLR and reset (R36, R151) -/

@[simp] theorem resetRegs_acc (s : State) : (resetRegs s).acc = 0xFFFFFFFF#32 := rfl
@[simp] theorem resetRegs_len (s : State) : (resetRegs s).len = 0#32 := rfl
@[simp] theorem resetRegs_typ (s : State) : (resetRegs s).typ = 0#32 := rfl
@[simp] theorem resetRegs_stored (s : State) : (resetRegs s).stored = 0#32 := rfl
@[simp] theorem resetRegs_cnt (s : State) : (resetRegs s).cnt = 0#32 := rfl
@[simp] theorem resetRegs_phase (s : State) : (resetRegs s).phase = .idle := rfl
@[simp] theorem resetRegs_pos (s : State) : (resetRegs s).pos = 0#2 := rfl
@[simp] theorem resetRegs_err (s : State) : (resetRegs s).err = .none := rfl
@[simp] theorem resetRegs_ephase (s : State) : (resetRegs s).ephase = .idle := rfl
@[simp] theorem resetRegs_done (s : State) : (resetRegs s).done = false := rfl
@[simp] theorem resetRegs_tfull (s : State) : (resetRegs s).tfull = false := rfl
@[simp] theorem resetRegs_out (s : State) : (resetRegs s).out = s.out := rfl
@[simp] theorem resetRegs_host (s : State) : (resetRegs s).host = s.host := rfl

/-! ### `startOperation`: SER and DES (R111, R131) -/

@[simp] theorem startOperation_acc (p : Phase) (s : State) : (startOperation p s).acc = Config.init := rfl
@[simp] theorem startOperation_len (p : Phase) (s : State) : (startOperation p s).len = 0#32 := rfl
@[simp] theorem startOperation_typ (p : Phase) (s : State) : (startOperation p s).typ = 0#32 := rfl
@[simp] theorem startOperation_stored (p : Phase) (s : State) : (startOperation p s).stored = 0#32 := rfl
@[simp] theorem startOperation_cnt (p : Phase) (s : State) : (startOperation p s).cnt = 0#32 := rfl
@[simp] theorem startOperation_phase (p : Phase) (s : State) : (startOperation p s).phase = p := rfl
@[simp] theorem startOperation_pos (p : Phase) (s : State) : (startOperation p s).pos = 0#2 := rfl
@[simp] theorem startOperation_err (p : Phase) (s : State) : (startOperation p s).err = s.err := rfl
@[simp] theorem startOperation_ephase (p : Phase) (s : State) : (startOperation p s).ephase = s.ephase := rfl
@[simp] theorem startOperation_done (p : Phase) (s : State) : (startOperation p s).done = false := rfl
@[simp] theorem startOperation_tfull (p : Phase) (s : State) : (startOperation p s).tfull = false := rfl
@[simp] theorem startOperation_out (p : Phase) (s : State) : (startOperation p s).out = s.out := rfl
@[simp] theorem startOperation_host (p : Phase) (s : State) : (startOperation p s).host = s.host := rfl

/-! ### `completeSer` (R115) -/

@[simp] theorem completeSer_acc (a : Word) (s : State) : (completeSer a s).acc = s.acc := rfl
@[simp] theorem completeSer_len (a : Word) (s : State) : (completeSer a s).len = s.len := rfl
@[simp] theorem completeSer_typ (a : Word) (s : State) : (completeSer a s).typ = s.typ := rfl
@[simp] theorem completeSer_stored (a : Word) (s : State) : (completeSer a s).stored = fin a := rfl
@[simp] theorem completeSer_cnt (a : Word) (s : State) : (completeSer a s).cnt = s.cnt := rfl
@[simp] theorem completeSer_phase (a : Word) (s : State) : (completeSer a s).phase = .idle := rfl
@[simp] theorem completeSer_pos (a : Word) (s : State) : (completeSer a s).pos = s.pos := rfl
@[simp] theorem completeSer_err (a : Word) (s : State) : (completeSer a s).err = s.err := rfl
@[simp] theorem completeSer_ephase (a : Word) (s : State) : (completeSer a s).ephase = s.ephase := rfl
@[simp] theorem completeSer_done (a : Word) (s : State) : (completeSer a s).done = true := rfl
@[simp] theorem completeSer_tfull (a : Word) (s : State) : (completeSer a s).tfull = s.tfull := rfl
@[simp] theorem completeSer_out (a : Word) (s : State) : (completeSer a s).out = s.out ++ be32 (fin a) := rfl
@[simp] theorem completeSer_host (a : Word) (s : State) : (completeSer a s).host = s.host := rfl

/-! ### `State.present`: the host presents a word -/

@[simp] theorem State.present_acc (w : CmdWord) (s : State) : (State.present w s).acc = s.acc := rfl
@[simp] theorem State.present_len (w : CmdWord) (s : State) : (State.present w s).len = s.len := rfl
@[simp] theorem State.present_typ (w : CmdWord) (s : State) : (State.present w s).typ = s.typ := rfl
@[simp] theorem State.present_stored (w : CmdWord) (s : State) : (State.present w s).stored = s.stored := rfl
@[simp] theorem State.present_cnt (w : CmdWord) (s : State) : (State.present w s).cnt = s.cnt := rfl
@[simp] theorem State.present_phase (w : CmdWord) (s : State) : (State.present w s).phase = s.phase := rfl
@[simp] theorem State.present_pos (w : CmdWord) (s : State) : (State.present w s).pos = s.pos := rfl
@[simp] theorem State.present_err (w : CmdWord) (s : State) : (State.present w s).err = s.err := rfl
@[simp] theorem State.present_ephase (w : CmdWord) (s : State) : (State.present w s).ephase = s.ephase := rfl
@[simp] theorem State.present_done (w : CmdWord) (s : State) : (State.present w s).done = s.done := rfl
@[simp] theorem State.present_tfull (w : CmdWord) (s : State) : (State.present w s).tfull = s.tfull := rfl
@[simp] theorem State.present_out (w : CmdWord) (s : State) : (State.present w s).out = s.out := rfl
@[simp] theorem State.present_host (w : CmdWord) (s : State) : (State.present w s).host = .command w :: s.host := rfl

end Sys2Proof.Machine
end

