-- ==== Sys2Proof/Laws/Ops.lean ====
section
/-! SUPPORT. For each shared operation one lemma that says once everything it can do. -/

namespace Sys2Proof.Machine

/-- Not IDLE and not ERROR is: inside an operation. -/
theorem inOperation_iff (p : Phase) : p.inOperation = true ↔ p ≠ .idle ∧ p ≠ .error := by cases p <;> decide

theorem onlyInIdle_idle {effect : State → State} {s : State} (h : s.phase = .idle) :
    onlyInIdle effect s = effect s := by simp [onlyInIdle, h]

theorem onlyInIdle_error {effect : State → State} {s : State} (h : s.phase = .error) :
    onlyInIdle effect s = s := by simp [onlyInIdle, h]

theorem onlyInIdle_operation {effect : State → State} {s : State} (h : s.phase.inOperation = true) :
    onlyInIdle effect s = raise .illegalCommand s := by
  cases hp : s.phase <;> simp_all [onlyInIdle, Phase.inOperation]

/-- All that `onlyInIdle` can do (R156). -/
theorem onlyInIdle_cases (effect : State → State) (s : State) :
    (s.phase = .idle ∧ onlyInIdle effect s = effect s) ∨ (s.phase = .error ∧ onlyInIdle effect s = s) ∨
    (s.phase.inOperation = true ∧ onlyInIdle effect s = raise .illegalCommand s) := by
  cases hp : s.phase <;> simp [onlyInIdle, hp, Phase.inOperation]

/-- All that an illegal word can do (R164, R166). -/
theorem illegalWord_cases (s : State) :
    (s.phase = .error ∧ illegalWord s = s) ∨ (s.phase ≠ .error ∧ illegalWord s = raise .illegalCommand s) := by
  cases hp : s.phase <;> simp [illegalWord, hp]

/-- All that `putSLen` can do (R112). -/
theorem putSLen_cases (b : Byte) (s : State) :
    (s.pos = 3#2 ∧ putSLen b s =
      { s with
        len := shiftIn s.len b, cnt := shiftIn s.len b, pos := 0#2, phase := .sType, out := s.out ++ [b] }) ∨
    (s.pos ≠ 3#2 ∧ putSLen b s = { s with len := shiftIn s.len b, pos := s.pos + 1#2, out := s.out ++ [b] }) := by
  by_cases h : s.pos = 3#2 <;> simp [putSLen, h, emit]

/-- All that `putSType` can do (R113, R115). -/
theorem putSType_cases (b : Byte) (s : State) :
    (isLetter b = false ∧ putSType b s = raise .invalidChunkType { s with typ := shiftIn s.typ b }) ∨
    (isLetter b = true ∧ s.pos ≠ 3#2 ∧ putSType b s =
      { s with typ := shiftIn s.typ b, acc := upd s.acc b, pos := s.pos + 1#2, out := s.out ++ [b] }) ∨
    (isLetter b = true ∧ s.pos = 3#2 ∧ s.cnt ≠ 0#32 ∧ putSType b s =
      { s with
        typ := shiftIn s.typ b, acc := upd s.acc b, pos := 0#2, tfull := true, phase := .sData,
        out := s.out ++ [b] }) ∨
    (isLetter b = true ∧ s.pos = 3#2 ∧ s.cnt = 0#32 ∧ putSType b s =
      completeSer (upd s.acc b)
        { s with
          typ := shiftIn s.typ b, acc := upd s.acc b, pos := 0#2, tfull := true, out := s.out ++ [b] }) := by
  by_cases hl : isLetter b = true <;> by_cases hp : s.pos = 3#2 <;> by_cases hc : s.cnt = 0#32 <;>
    simp_all [putSType, emit]

/-- All that `putSData` can do (R114, R115). -/
theorem putSData_cases (b : Byte) (s : State) :
    (s.cnt ≠ 1#32 ∧ putSData b s =
      { s with acc := upd s.acc b, cnt := s.cnt - 1#32, out := s.out ++ [b] }) ∨
    (s.cnt = 1#32 ∧ putSData b s =
      completeSer (upd s.acc b) { s with acc := upd s.acc b, cnt := 0#32, out := s.out ++ [b] }) := by
  have hiff : s.cnt - 1#32 = 0#32 ↔ s.cnt = 1#32 := by constructor <;> intro h <;> bv_omega
  by_cases h : s.cnt = 1#32
  · right; simp [putSData, h, emit]
  · left; simp [putSData, h, hiff, emit]

/-- All that `putDLen` can do (R132). -/
theorem putDLen_cases (b : Byte) (s : State) :
    (s.pos = 3#2 ∧ putDLen b s =
      { s with len := shiftIn s.len b, cnt := shiftIn s.len b, pos := 0#2, phase := .dType }) ∨
    (s.pos ≠ 3#2 ∧ putDLen b s = { s with len := shiftIn s.len b, pos := s.pos + 1#2 }) := by
  by_cases h : s.pos = 3#2 <;> simp [putDLen, h]

/-- All that `putDType` can do (R133). -/
theorem putDType_cases (b : Byte) (s : State) :
    (isLetter b = false ∧ putDType b s = raise .invalidChunkType { s with typ := shiftIn s.typ b }) ∨
    (isLetter b = true ∧ s.pos ≠ 3#2 ∧ putDType b s =
      { s with typ := shiftIn s.typ b, acc := upd s.acc b, pos := s.pos + 1#2 }) ∨
    (isLetter b = true ∧ s.pos = 3#2 ∧ s.cnt ≠ 0#32 ∧ putDType b s =
      { s with typ := shiftIn s.typ b, acc := upd s.acc b, pos := 0#2, tfull := true, phase := .dData }) ∨
    (isLetter b = true ∧ s.pos = 3#2 ∧ s.cnt = 0#32 ∧ putDType b s =
      { s with typ := shiftIn s.typ b, acc := upd s.acc b, pos := 0#2, tfull := true, phase := .dCrc }) := by
  by_cases hl : isLetter b = true <;> by_cases hp : s.pos = 3#2 <;> by_cases hc : s.cnt = 0#32 <;>
    simp_all [putDType]

/-- All that `putDData` can do (R134). -/
theorem putDData_cases (b : Byte) (s : State) :
    (s.cnt ≠ 1#32 ∧ putDData b s =
      { s with acc := upd s.acc b, cnt := s.cnt - 1#32, out := s.out ++ [b] }) ∨
    (s.cnt = 1#32 ∧ putDData b s =
      { s with acc := upd s.acc b, cnt := 0#32, phase := .dCrc, out := s.out ++ [b] }) := by
  have hiff : s.cnt - 1#32 = 0#32 ↔ s.cnt = 1#32 := by constructor <;> intro h <;> bv_omega
  by_cases h : s.cnt = 1#32
  · right; simp [putDData, h, emit]
  · left; simp [putDData, h, hiff, emit]

/-- All that `putDCrc` can do (R135). -/
theorem putDCrc_cases (b : Byte) (s : State) :
    (s.pos ≠ 3#2 ∧ putDCrc b s = { s with stored := shiftIn s.stored b, pos := s.pos + 1#2 }) ∨
    (s.pos = 3#2 ∧ shiftIn s.stored b = fin s.acc ∧ putDCrc b s =
      { s with stored := shiftIn s.stored b, pos := 0#2, phase := .idle, done := true }) ∨
    (s.pos = 3#2 ∧ shiftIn s.stored b ≠ fin s.acc ∧ putDCrc b s =
      raise .checksumMismatch { s with stored := shiftIn s.stored b }) := by
  by_cases hp : s.pos = 3#2 <;> by_cases hc : shiftIn s.stored b = fin s.acc <;> simp [putDCrc, hp, hc]

/-- All that `fetch` can find (R41, R180). -/
theorem fetch_cases (s : State) :
    (s.host = [] ∧ fetch s = .nothing) ∨
    (∃ ws rest, s.host = .reset ws :: rest ∧ fetch s = .reset { s with host := rest }) ∨
    (∃ w rest, s.host = .command w :: rest ∧ fetch s = .command w { s with host := rest }) := by
  rcases h : s.host with _ | ⟨_ | _, _⟩ <;> simp [fetch, h]

/-- Bytes are fed on while the operation is open (R136). -/
theorem feed_cons {b : Byte} {bs : List Byte} {s t : State} (h : s.phase.inOperation = true)
    (ht : exec (.put b) s = .next t) : feed (b :: bs) s = feed bs t := by simp [feed, h, ht]

/-- The host stops when the operation is over (R136). -/
theorem feed_over {bs : List Byte} {s : State} (h : s.phase.inOperation = false) : feed bs s = .next (s, bs) := by
  cases bs <;> simp [feed, h]

/-- Bytes used up inside the operation: END raises Truncated (R136, R152). -/
theorem feed_nil {s : State} (h : s.phase.inOperation = true) : feed [] s = .next (raise .truncated s, []) := by
  cases hp : s.phase <;> simp_all [feed, exec, execEnd, Phase.inOperation]

end Sys2Proof.Machine
end

