-- ==== Sys2Proof/Laws/Inversion.lean ====
section
/-! SUPPORT. Said once: everything a PUT inside an operation, a command word, and a step can do. A proof about every step
is a case analysis over these effects. -/

namespace Sys2Proof.Machine

/-- What PUT b does inside an operation, one constructor per branch of R112 to R115 and R132 to R135. -/
inductive PutEffect (b : Byte) (s : State) : State → Prop
  | serLength (hp : s.phase = .sLen) (hpos : s.pos ≠ 3#2) :
    PutEffect b s { s with len := shiftIn s.len b, pos := s.pos + 1#2, out := s.out ++ [b] }
  | serLengthFull (hp : s.phase = .sLen) (hpos : s.pos = 3#2) :
    PutEffect b s
      { s with len := shiftIn s.len b, cnt := shiftIn s.len b, pos := 0#2, phase := .sType, out := s.out ++ [b] }
  | desLength (hp : s.phase = .dLen) (hpos : s.pos ≠ 3#2) :
    PutEffect b s { s with len := shiftIn s.len b, pos := s.pos + 1#2 }
  | desLengthFull (hp : s.phase = .dLen) (hpos : s.pos = 3#2) :
    PutEffect b s { s with len := shiftIn s.len b, cnt := shiftIn s.len b, pos := 0#2, phase := .dType }
  | badType (hp : s.phase = .sType ∨ s.phase = .dType) (hb : isLetter b = false) :
    PutEffect b s (raise .invalidChunkType { s with typ := shiftIn s.typ b })
  | serType (hp : s.phase = .sType) (hb : isLetter b = true) (hpos : s.pos ≠ 3#2) :
    PutEffect b s { s with typ := shiftIn s.typ b, acc := upd s.acc b, pos := s.pos + 1#2, out := s.out ++ [b] }
  | serTypeFull (hp : s.phase = .sType) (hb : isLetter b = true) (hpos : s.pos = 3#2) (hcnt : s.cnt ≠ 0#32) :
    PutEffect b s
      { s with
        typ := shiftIn s.typ b, acc := upd s.acc b, pos := 0#2, tfull := true, phase := .sData,
        out := s.out ++ [b] }
  | serTypeLast (hp : s.phase = .sType) (hb : isLetter b = true) (hpos : s.pos = 3#2) (hcnt : s.cnt = 0#32) :
    PutEffect b s
      { s with
        typ := shiftIn s.typ b, acc := upd s.acc b, pos := 0#2, tfull := true, phase := .idle,
        stored := fin (upd s.acc b), done := true, out := s.out ++ [b] ++ be32 (fin (upd s.acc b)) }
  | desType (hp : s.phase = .dType) (hb : isLetter b = true) (hpos : s.pos ≠ 3#2) :
    PutEffect b s { s with typ := shiftIn s.typ b, acc := upd s.acc b, pos := s.pos + 1#2 }
  | desTypeFull (hp : s.phase = .dType) (hb : isLetter b = true) (hpos : s.pos = 3#2) (hcnt : s.cnt ≠ 0#32) :
    PutEffect b s
      { s with typ := shiftIn s.typ b, acc := upd s.acc b, pos := 0#2, tfull := true, phase := .dData }
  | desTypeLast (hp : s.phase = .dType) (hb : isLetter b = true) (hpos : s.pos = 3#2) (hcnt : s.cnt = 0#32) :
    PutEffect b s
      { s with typ := shiftIn s.typ b, acc := upd s.acc b, pos := 0#2, tfull := true, phase := .dCrc }
  | serData (hp : s.phase = .sData) (hcnt : s.cnt ≠ 1#32) :
    PutEffect b s { s with acc := upd s.acc b, cnt := s.cnt - 1#32, out := s.out ++ [b] }
  | serDataLast (hp : s.phase = .sData) (hcnt : s.cnt = 1#32) :
    PutEffect b s
      { s with
        acc := upd s.acc b, cnt := 0#32, phase := .idle, stored := fin (upd s.acc b), done := true,
        out := s.out ++ [b] ++ be32 (fin (upd s.acc b)) }
  | desData (hp : s.phase = .dData) (hcnt : s.cnt ≠ 1#32) :
    PutEffect b s { s with acc := upd s.acc b, cnt := s.cnt - 1#32, out := s.out ++ [b] }
  | desDataLast (hp : s.phase = .dData) (hcnt : s.cnt = 1#32) :
    PutEffect b s { s with acc := upd s.acc b, cnt := 0#32, phase := .dCrc, out := s.out ++ [b] }
  | checksumByte (hp : s.phase = .dCrc) (hpos : s.pos ≠ 3#2) :
    PutEffect b s { s with stored := shiftIn s.stored b, pos := s.pos + 1#2 }
  | checksumRight (hp : s.phase = .dCrc) (hpos : s.pos = 3#2) (heq : shiftIn s.stored b = fin s.acc) :
    PutEffect b s { s with stored := shiftIn s.stored b, pos := 0#2, phase := .idle, done := true }
  | checksumWrong (hp : s.phase = .dCrc) (hpos : s.pos = 3#2) (hne : shiftIn s.stored b ≠ fin s.acc) :
    PutEffect b s (raise .checksumMismatch { s with stored := shiftIn s.stored b })

/-- PUT b inside an operation has one of these effects (R153). -/
theorem put_effect {b : Byte} {s t : State} (ho : s.phase.inOperation = true) (h : exec (.put b) s = .next t) :
    PutEffect b s t := by
  cases hp : s.phase <;> simp only [hp, Phase.inOperation, Bool.false_eq_true] at ho <;>
    simp only [exec, execPut, hp, Host.Outcome.next.injEq] at h <;> subst h
  case sLen =>
    rcases putSLen_cases b s with ⟨h1, h2⟩ | ⟨h1, h2⟩ <;> rw [h2]
    · exact .serLengthFull hp h1
    · exact .serLength hp h1
  case sType =>
    rcases putSType_cases b s with ⟨h1, h2⟩ | ⟨h1, h2, h3⟩ | ⟨h1, h2, h3, h4⟩ | ⟨h1, h2, h3, h4⟩
    · rw [h2]; exact .badType (.inl hp) h1
    · rw [h3]; exact .serType hp h1 h2
    · rw [h4]; exact .serTypeFull hp h1 h2 h3
    · rw [h4]; exact .serTypeLast hp h1 h2 h3
  case sData =>
    rcases putSData_cases b s with ⟨h1, h2⟩ | ⟨h1, h2⟩ <;> rw [h2]
    · exact .serData hp h1
    · exact .serDataLast hp h1
  case dLen =>
    rcases putDLen_cases b s with ⟨h1, h2⟩ | ⟨h1, h2⟩ <;> rw [h2]
    · exact .desLengthFull hp h1
    · exact .desLength hp h1
  case dType =>
    rcases putDType_cases b s with ⟨h1, h2⟩ | ⟨h1, h2, h3⟩ | ⟨h1, h2, h3, h4⟩ | ⟨h1, h2, h3, h4⟩
    · rw [h2]; exact .badType (.inr hp) h1
    · rw [h3]; exact .desType hp h1 h2
    · rw [h4]; exact .desTypeFull hp h1 h2 h3
    · rw [h4]; exact .desTypeLast hp h1 h2 h3
  case dData =>
    rcases putDData_cases b s with ⟨h1, h2⟩ | ⟨h1, h2⟩ <;> rw [h2]
    · exact .desData hp h1
    · exact .desDataLast hp h1
  case dCrc =>
    rcases putDCrc_cases b s with ⟨h1, h2⟩ | ⟨h1, h2, h3⟩ | ⟨h1, h2, h3⟩
    · rw [h2]; exact .checksumByte hp h1
    · rw [h3]; exact .checksumRight hp h1 h2
    · rw [h3]; exact .checksumWrong hp h1 h2

/-- What a command word does (R156), the verdict of the decoder being `d`. -/
inductive WordEffect (d : Except IllegalWord Instr) (s : State) : State → Prop
  | nothing : WordEffect d s s
  | clear (hd : d = .ok .clr) : WordEffect d s (resetRegs s)
  | truncated (ho : s.phase.inOperation = true) (hd : d = .ok .endInput) : WordEffect d s (raise .truncated s)
  | illegal (hp : s.phase ≠ .error) (k : IllegalWord) (hd : d = .error k) : WordEffect d s (raise .illegalCommand s)
  | putNowhere (hp : s.phase = .idle) (b : Byte) (hd : d = .ok (.put b)) : WordEffect d s (raise .illegalCommand s)
  | wrongPhase (ho : s.phase.inOperation = true)
    (hd : d = .ok .crci ∨ (∃ b, d = .ok (.crcb b)) ∨ d = .ok .crcr ∨ d = .ok .ser ∨ d = .ok .des) :
    WordEffect d s (raise .illegalCommand s)
  | preset (hp : s.phase = .idle) (hd : d = .ok .crci) : WordEffect d s { s with acc := Config.init }
  | feed (hp : s.phase = .idle) (b : Byte) (hd : d = .ok (.crcb b)) : WordEffect d s { s with acc := upd s.acc b }
  | read (hp : s.phase = .idle) (hd : d = .ok .crcr) : WordEffect d s (emit (be32 (fin s.acc)) s)
  | startSer (hp : s.phase = .idle) (hd : d = .ok .ser) : WordEffect d s (startOperation .sLen s)
  | startDes (hp : s.phase = .idle) (hd : d = .ok .des) : WordEffect d s (startOperation .dLen s)
  | put (b : Byte) (hd : d = .ok (.put b)) (ho : s.phase.inOperation = true) (t : State) (h : PutEffect b s t) :
    WordEffect d s t

/-- A command word has one of these effects (R156). -/
theorem word_effect {w : CmdWord} {s t : State} (h : execWord w s = .next t) : WordEffect (decode w) s t := by
  unfold execWord at h
  rcases hd : decode w with k | i <;> simp only [hd] at h
  · cases h
    rcases illegalWord_cases s with ⟨hp, he⟩ | ⟨hp, he⟩ <;> rw [he]
    · exact .nothing
    · exact .illegal hp k rfl
  · cases i
    case put b =>
      cases hp : s.phase
      case idle => simp only [exec, execPut, hp, Host.Outcome.next.injEq] at h; subst h; exact .putNowhere hp b rfl
      case error => simp only [exec, execPut, hp, Host.Outcome.next.injEq] at h; subst h; exact .nothing
      all_goals
        have ho : s.phase.inOperation = true := by rw [hp]; rfl
        exact .put b rfl ho t (put_effect ho h)
    case nop => cases h; exact .nothing
    case clr => cases h; exact .clear rfl
    case endInput =>
      cases hp : s.phase <;> simp only [exec, execEnd, hp, Host.Outcome.next.injEq] at h <;> subst h <;>
        first
          | exact .nothing
          | exact .truncated (by rw [hp]; rfl) rfl
    all_goals
      simp only [exec, execCrci, execCrcb, execCrcr, execSer, execDes, Host.Outcome.next.injEq] at h
      subst h
      rcases onlyInIdle_cases (s := s) (effect := _) with ⟨hp, he⟩ | ⟨hp, he⟩ | ⟨ho, he⟩ <;> rw [he]
    case crci.inl => exact .preset hp rfl
    case crcb.inl b => exact .feed hp b rfl
    case crcr.inl => exact .read hp rfl
    case ser.inl => exact .startSer hp rfl
    case des.inl => exact .startDes hp rfl
    all_goals
      first
        | exact .nothing
        | exact .wrongPhase ho (by simp)

/-- A step does nothing, takes a reset, or runs a word (R156, R180). -/
theorem step_effect {s t : State} (h : step s = .next t) :
    (s.host = [] ∧ t = s) ∨ (∃ ws rest, s.host = .reset ws :: rest ∧ t = resetRegs { s with host := rest }) ∨
    (∃ w rest, s.host = .command w :: rest ∧ execWord w { s with host := rest } = .next t) := by
  rcases fetch_cases s with ⟨hh, hf⟩ | ⟨ws, rest, hh, hf⟩ | ⟨w, rest, hh, hf⟩ <;>
    simp only [step, hf, hold, takeReset, Host.Outcome.next.injEq] at h
  · exact .inl ⟨hh, h.symm⟩
  · exact .inr (.inl ⟨ws, rest, hh, h.symm⟩)
  · exact .inr (.inr ⟨w, rest, hh, h⟩)

end Sys2Proof.Machine
end

