-- ==== Sys2Proof/Laws/PerInstr.lean ====
section
/-! SUPPORT. Statements made per instruction: each command's word has the fields and the row the spec gives it
(30_encoding R60, R62). -/

namespace Sys2Proof.Laws.EncodedRow

/-- The encoded word is well formed and is matched by the command's own row (R62). -/
def Statement (i : Instr) : Prop :=
  (C16.ofWord (encode i)).wellFormed = true ∧ encode i &&& i.rowMask = i.rowMatch

theorem nop : Statement .nop := by unfold Statement; decide
theorem crci : Statement .crci := by unfold Statement; decide
theorem crcb (b : Byte) : Statement (.crcb b) := by revert b; unfold Statement; decide
theorem crcr : Statement .crcr := by unfold Statement; decide
theorem ser : Statement .ser := by unfold Statement; decide
theorem des : Statement .des := by unfold Statement; decide
theorem put (b : Byte) : Statement (.put b) := by revert b; unfold Statement; decide
theorem endInput : Statement .endInput := by unfold Statement; decide
theorem clr : Statement .clr := by unfold Statement; decide

end Sys2Proof.Laws.EncodedRow
end

