-- ==== Sys2Proof/Tests/Slice0.lean ====
section
/-! SUPPORT. Small tests of the model against the spec's own vectors (95_test_vectors), and for every statement with
hypotheses a witness that meets them. Expected values come from the spec; each test names its source. -/

namespace Sys2Proof.Tests

open Sys2Proof Sys2Proof.Machine

/-- The outcome is a next state with this property. -/
def nextHolds (o : Result) (p : State → Bool) : Bool :=
  match o with
  | .next t => p t
  | .fault _ => false
  | .refused _ => false

/-- The session ends in a next state with this property, and so many bytes are left. -/
def sessionHolds (o : Host.Outcome (State × List Byte) Fault Refusal) (left : Nat) (p : State → Bool) : Bool :=
  match o with
  | .next t => p t.1 && t.2.length == left
  | .fault _ => false
  | .refused _ => false

/-- A state in a phase, all else as at reset. -/
def inPhase (p : Phase) : State := { State.reset with phase := p }

/-- A state in phase ERROR after an illegal word in IDLE. -/
def inError : State := { State.reset with phase := .error, err := .illegalCommand }

/-- A state in S_DATA or D_DATA of a `tEXt` chunk of one data byte, none taken (V32a). -/
def oneByteLeft (p : Phase) : State :=
  { State.reset with phase := p, len := 1#32, cnt := 1#32, typ := 0x74455874#32, tfull := true, acc := 0x69BD3A7A#32 }

/-! ### The checks of WellFormed refuse an ill-formed term each -/

theorem test_wellFormed_refuses_reserved_opcode : (C16.mk 0x09#8 0x00#8).wellFormed = false := by decide
theorem test_wellFormed_refuses_operand : (C16.mk 0x00#8 0x01#8).wellFormed = false := by decide
theorem test_wellFormed_takes_put : (C16.mk 0x06#8 0xFF#8).wellFormed = true := by decide
theorem test_wellFormed_refuses_three_type_bytes :
    (Pseudo.serchunk [0x49#8, 0x45#8, 0x4E#8] []).wellFormed = false := by decide

/-! ### Decoding: words written out from R62 (op in bits 15:8, b in bits 7:0) -/

theorem test_decode_nop : decode 0b0000000000000000#16 = .ok .nop := by decide
theorem test_decode_crci : decode 0b0000000100000000#16 = .ok .crci := by decide
theorem test_decode_crcb : decode 0b0000001001010101#16 = .ok (.crcb 0x55#8) := by decide
theorem test_decode_crcr : decode 0b0000001100000000#16 = .ok .crcr := by decide
theorem test_decode_ser : decode 0b0000010000000000#16 = .ok .ser := by decide
theorem test_decode_des : decode 0b0000010100000000#16 = .ok .des := by decide
theorem test_decode_put : decode 0b0000011001000001#16 = .ok (.put 0x41#8) := by decide
theorem test_decode_end : decode 0b0000011100000000#16 = .ok .endInput := by decide
theorem test_decode_clr : decode 0b0000100000000000#16 = .ok .clr := by decide
/-- V42: the words with a nonzero operand on a command that has none. -/
theorem test_decode_nonzero_operand :
    [0x0001#16, 0x0101#16, 0x0301#16, 0x0401#16, 0x0501#16, 0x0701#16, 0x0801#16, 0x08FF#16].all
      (fun w => decode w == .error .nonzeroOperand) = true := by decide
/-- V41, V52: reserved opcodes. -/
theorem test_decode_reserved :
    [0x0900#16, 0x1000#16, 0x8000#16, 0xFFFF#16].all (fun w => decode w == .error .reservedOpcode) = true := by decide
theorem test_decodeTableWord : decodeTableWord 16 0x0649 = some (.put 0x49#8) := by decide
theorem test_decodeTableWord_illegal : decodeTableWord 16 0x0801 = none := by decide

/-! ### Assembler (R66) -/

theorem test_assemble_quoted : assemble ['C', 'R', 'C', 'B', ' ', '\'', 'I', '\''] = some (.crcb 0x49#8) := by decide
theorem test_assemble_decimal_and_comment :
    assemble ['P', 'U', 'T', ' ', '2', '5', '5', ' ', ';', 'x'] = some (.put 0xFF#8) := by decide
theorem test_assemble_refuses_256 : assemble ['P', 'U', 'T', ' ', '2', '5', '6'] = none := by decide

/-! ### The functions -/

/-- V10: `is_letter` at the edges. -/
theorem test_isLetter_edges :
    ([0x41#8, 0x5A#8, 0x61#8, 0x7A#8].all isLetter &&
      [0x40#8, 0x5B#8, 0x60#8, 0x7B#8, 0x00#8, 0x39#8, 0x7F#8, 0x80#8, 0xC1#8, 0xFF#8].all (!isLetter ·)) = true := by
  decide

/-- V21: bit steps 1 and 2 of `upd(0xFFFFFFFF, 0x61)`. -/
theorem test_bitstep : bitstep 0xFFFFFF9E#32 = 0x7FFFFFCF#32 ∧ bitstep 0x7FFFFFCF#32 = 0xD2477CC7#32 := by decide
/-- V22. -/
theorem test_upd : upd 0x12345678#32 0x9A#8 = 0x4E16B702#32 := by decide
/-- V25: the table form for the second byte of "123456789". -/
theorem test_updTable : updTable 0x7C231048#32 0x32#8 = 0xB0ACBB32#32 := by decide
/-- V20: "123456789". -/
theorem test_crc32_check_value :
    crc32 [0x31#8, 0x32#8, 0x33#8, 0x34#8, 0x35#8, 0x36#8, 0x37#8, 0x38#8, 0x39#8] = 0xCBF43926#32 := by decide +kernel
/-- V20: the empty sequence. -/
theorem test_crc32_empty : crc32 [] = 0#32 := by decide
/-- R96: the last entry of the table, by its address in the ROM. -/
theorem test_romRead : romRead 1020 4 = some 0x2D02EF8D#32 ∧ romRead 1024 4 = none ∧ romRead 2 4 = none := by decide
/-- V30. -/
theorem test_serialize_iend : serialize [0x49#8, 0x45#8, 0x4E#8, 0x44#8] [] =
    [0#8, 0#8, 0#8, 0#8, 0x49#8, 0x45#8, 0x4E#8, 0x44#8, 0xAE#8, 0x42#8, 0x60#8, 0x82#8] := by decide +kernel
/-- V36, with a byte left over. -/
theorem test_deserialize_iend :
    deserialize [0#8, 0#8, 0#8, 0#8, 0x49#8, 0x45#8, 0x4E#8, 0x44#8, 0xAE#8, 0x42#8, 0x60#8, 0x82#8, 0x07#8] =
      .ok [0x49#8, 0x45#8, 0x4E#8, 0x44#8] [] 0xAE426082#32 [0x07#8] := by decide +kernel
/-- V44. -/
theorem test_deserialize_zero_checksum :
    deserialize [0#8, 0#8, 0#8, 0#8, 0x49#8, 0x45#8, 0x4E#8, 0x44#8, 0#8, 0#8, 0#8, 0#8] =
      .error .checksumMismatch := by decide +kernel
/-- R130: a present non-letter wins over a truncation further on; a truncation inside the type field wins over a byte
that is not there. -/
theorem test_deserialize_order : deserialize [0#8, 0#8, 0#8, 9#8, 0x31#8] = .error .invalidChunkType ∧
    deserialize [0#8, 0#8, 0#8, 9#8, 0x49#8] = .error .truncated ∧ deserialize [0#8, 0#8] = .error .truncated := by decide

/-! ### One step each -/

/-- V50. -/
theorem test_step_nop : nextHolds (step ((inPhase .dData).present 0x0000#16)) (· == inPhase .dData) = true := by decide
/-- V27: CRCI after a chunk operation presets `acc`. -/
theorem test_step_crci :
    nextHolds (step ({ State.reset with acc := 0x51BD9F7D#32 }.present 0x0100#16)) (·.acc == 0xFFFFFFFF#32) = true := by
  decide
/-- V23, first row. -/
theorem test_step_crcb : nextHolds (step (State.reset.present 0x0231#16))
    (fun t => t.acc == 0x7C231048#32 && t.crcO == 0x83DCEFB7#32 && t.out == []) = true := by decide
/-- V47: a raw command inside an operation. -/
theorem test_step_crcb_in_operation : nextHolds (step ((inPhase .dLen).present 0x0255#16))
    (fun t => t.phase == .error && t.err == .illegalCommand && t.ephase == .dLen && t.acc == 0xFFFFFFFF#32) = true := by
  decide
/-- P1, step 11. -/
theorem test_step_crcr : nextHolds (step ({ State.reset with acc := 0x340BC6D9#32 }.present 0x0300#16))
    (fun t => t.out == [0xCB#8, 0xF4#8, 0x39#8, 0x26#8] && t.acc == 0x340BC6D9#32) = true := by decide
/-- V54: DES after a completed operation. -/
theorem test_step_des :
    nextHolds (step ({ State.reset with done := true, tfull := true, typ := 0x49454E44#32, stored := 0xAE426082#32 }.present
      0x0500#16)) (· == inPhase .dLen) = true := by decide
/-- V46: SER inside an operation. -/
theorem test_step_ser_in_operation : nextHolds (step ((inPhase .sLen).present 0x0400#16))
    (fun t => t.phase == .error && t.err == .illegalCommand && t.ephase == .sLen) = true := by decide
/-- R111's example. -/
theorem test_step_ser : nextHolds (step (State.reset.present 0x0400#16)) (· == inPhase .sLen) = true := by decide
/-- R113's example: the fourth type byte of an empty chunk. -/
theorem test_step_put_completes :
    nextHolds (step ({ inPhase .sType with pos := 3#2, typ := 0x0049454E#32, acc := 0x639F4775#32 }.present 0x0644#16))
      (fun t => t.typ == 0x49454E44#32 && t.stored == 0xAE426082#32 && t.phase == .idle && t.done &&
        t.out == [0x44#8, 0xAE#8, 0x42#8, 0x60#8, 0x82#8]) = true := by decide
/-- R135's second example: the compare fails. -/
theorem test_step_put_mismatch :
    nextHolds (step ({ inPhase .dCrc with pos := 3#2, stored := 0x008CE52B#32, acc := 0x4E7AFD02#32 }.present 0x064D#16))
      (fun t => t.phase == .error && t.err == .checksumMismatch && t.ephase == .dCrc && t.pos == 3#2 &&
        t.stored == 0x8CE52B4D#32 && t.crcO == 0xB18502FD#32) = true := by decide
/-- R152's example. -/
theorem test_step_end : nextHolds (step ((oneByteLeft .dData).present 0x0700#16))
    (fun t => t.phase == .error && t.err == .truncated && t.ephase == .dData && t.cnt == 1#32) = true := by decide
/-- V45: END in IDLE. -/
theorem test_step_end_idle : nextHolds (step (State.reset.present 0x0700#16)) (· == State.reset) = true := by decide
/-- R151's example, with OUT kept (V51). -/
theorem test_step_clr : nextHolds (step ({ inError with out := [0x41#8], pos := 3#2 }.present 0x0800#16))
    (· == { State.reset with out := [0x41#8] }) = true := by decide
/-- V49: 0x0801 is not CLR. -/
theorem test_step_not_clr : nextHolds (step (inError.present 0x0801#16)) (· == inError) = true := by decide
/-- V53, and R193: the word presented during reset is not taken. -/
theorem test_step_reset :
    nextHolds (step { inError with host := [.reset [0x0400#16], .command 0x0500#16], out := [1#8] })
      (· == { State.reset with out := [1#8], host := [.command 0x0500#16] }) = true := by decide
/-- The fetched word is run by the very next step. -/
theorem test_withFetchWord : nextHolds (step (State.reset.withFetchWord 16 0x0500)) (·.phase == .dLen) = true := by decide
/-- V12: `stEg`. -/
theorem test_flags_steg : (let s := { State.reset with typ := 0x73744567#32, tfull := true }
    !s.fCritical && !s.fPublic && s.fValid && s.fSafe) = true := by decide

/-! ### Witnesses: every statement with hypotheses has inputs that meet them -/

theorem witness_ResetAndClrLeaveTheResetValues :
    { State.reset with host := [.reset []] }.host = .reset [] :: [] ∧ AtResetValues State.reset := by decide

theorem witness_PropertyWiresAreBitFiveGatedByTfull :
    { State.reset with typ := 0x73744567#32 }.typ = fromBe32 0x73#8 0x74#8 0x45#8 0x67#8 := by decide

theorem witness_DecodeInvertsEncode : decode 0x06FF#16 = .ok (.put 0xFF#8) := by decide

theorem witness_DecodeFollowsTheMatchMaskRows :
    decode 0x0812#16 = .error .nonzeroOperand ∧ decode 0x0612#16 = .ok (.put 0x12#8) ∧
    0x0612#16 &&& (Instr.put 0#8).rowMask = (Instr.put 0#8).rowMatch ∧
    0x0612#16 &&& (Instr.put 0xFF#8).rowMask = (Instr.put 0xFF#8).rowMatch := by decide

theorem witness_IllegalWordsAreReservedAndRaise :
    decode 0x0900#16 = .error .reservedOpcode ∧ decode 0x08FF#16 = .error .nonzeroOperand ∧
    State.reset.phase ≠ .error ∧ inError.phase = .error := by decide

theorem witness_PseudoInstructionsExpandAsListed :
    (Pseudo.serchunk [0x49#8, 0x45#8, 0x4E#8, 0x44#8] [0x00#8]).wellFormed = true := by decide

theorem witness_StepRunsTheDecodedCommand :
    (State.reset.present 0x0255#16).host = .command 0x0255#16 :: [] ∧ decode 0x0255#16 = .ok (.crcb 0x55#8) := by decide

theorem witness_StepOnAnIllegalWord :
    (State.reset.present 0xFFFF#16).host = .command 0xFFFF#16 :: [] ∧ decode 0xFFFF#16 = .error .reservedOpcode ∧
    (State.reset.present 0xFFFF#16).phase ≠ .error ∧
    (inError.present 0xFFFF#16).host = .command 0xFFFF#16 :: [] ∧ (inError.present 0xFFFF#16).phase = .error := by decide

theorem witness_StepIsTotal : State.reset.host = [] := by decide

/-- CRCR emits 4 bytes; a PUT that completes a chunk emits 5; a CRCI emits none. -/
theorem witness_OutputIsAppendOnlyInTheStatedSizes :
    (∃ t, execWord 0x0300#16 State.reset = .next t) ∧ decode 0x0300#16 = .ok .crcr ∧
    (∃ t, execWord 0x0641#16 (oneByteLeft .sData) = .next t) ∧ decode 0x0641#16 = .ok (.put 0x41#8) ∧
    (∃ t, execWord 0x0100#16 State.reset = .next t) ∧ decode 0x0100#16 = .ok .crci :=
  ⟨⟨_, rfl⟩, by decide, ⟨_, rfl⟩, by decide, ⟨_, rfl⟩, by decide⟩

/-- One word and state for each entry kind of the legality table. -/
theorem witness_LegalityByPhaseDecidesEveryWord :
    (∃ t, execWord 0x0600#16 inError = .next t) ∧ legality (decode 0x0600#16).toOption inError.phase = .ign ∧
    (∃ t, execWord 0x0600#16 State.reset = .next t) ∧ legality (decode 0x0600#16).toOption State.reset.phase = .ill ∧
    (∃ t, execWord 0x0700#16 (inPhase .sLen) = .next t) ∧
    legality (decode 0x0700#16).toOption (inPhase .sLen).phase = .trunc ∧
    (∃ t, execWord 0x0631#16 (inPhase .dType) = .next t) ∧
    legality (decode 0x0631#16).toOption (inPhase .dType).phase = .ok :=
  ⟨⟨_, rfl⟩, by decide, ⟨_, rfl⟩, by decide, ⟨_, rfl⟩, by decide, ⟨_, rfl⟩, by decide⟩

theorem witness_PhaseMovesOnlyAsTheTransitionTableSays :
    (∃ t, execWord 0x0500#16 State.reset = .next t) ∧
    { inError with host := [.reset []] }.host = .reset [] :: [] ∧
    (∃ t, step { inError with host := [.reset []] } = .next t) := ⟨⟨_, rfl⟩, by decide, ⟨_, rfl⟩⟩

/-- For the statements of NOP, CLR, END, PUT outside an operation, CRCI, CRCB, CRCR, SER and DES: a state in IDLE, one in
ERROR, one inside an operation, and a nonzero operand. -/
theorem witness_CommandsByPhase :
    State.reset.phase = .idle ∧ inError.phase = .error ∧ (inPhase .dCrc).phase ≠ .idle ∧ (inPhase .dCrc).phase ≠ .error ∧
    0xFF#8 ≠ 0#8 ∧ State.reset.acc ^^^ 0xFFFFFFFF#32 = fromBe32 0#8 0#8 0#8 0#8 := by decide

theorem witness_PutInSLenTakesALengthByte :
    (inPhase .sLen).phase = .sLen ∧ (inPhase .sLen).pos ≠ 3#2 ∧ { inPhase .sLen with pos := 3#2 }.phase = .sLen ∧
    { inPhase .sLen with pos := 3#2 }.pos = 3#2 := by decide

theorem witness_PutInSTypeTakesATypeByte :
    (inPhase .sType).phase = .sType ∧ isLetter 0x5B#8 = false ∧ isLetter 0x5A#8 = true ∧ (inPhase .sType).pos ≠ 3#2 ∧
    { inPhase .sType with pos := 3#2 }.pos = 3#2 ∧ { inPhase .sType with pos := 3#2 }.cnt = 0#32 ∧
    { inPhase .sType with pos := 3#2, cnt := 1#32, len := 1#32 }.cnt ≠ 0#32 := by decide

theorem witness_PutInSDataTakesADataByte :
    (oneByteLeft .sData).phase = .sData ∧ 1#32 ≤ (oneByteLeft .sData).cnt ∧ (oneByteLeft .sData).cnt = 1#32 ∧
    1#32 ≤ { oneByteLeft .sData with cnt := 2#32, len := 2#32 }.cnt ∧
    { oneByteLeft .sData with cnt := 2#32, len := 2#32 }.cnt ≠ 1#32 := by decide

theorem witness_SerializeHasTheLayoutAndIsInjective :
    [0x49#8, 0x45#8, 0x4E#8, 0x44#8].length = 4 ∧ ([] : List Byte).length ≤ Config.maxLen ∧
    serialize [0x49#8, 0x45#8, 0x4E#8, 0x44#8] [] = serialize [0x49#8, 0x45#8, 0x4E#8, 0x44#8] [] := by decide +kernel

theorem witness_SerializationTheorem :
    let s := { State.reset with host := presented (Pseudo.serchunk [0x74#8, 0x45#8, 0x58#8, 0x74#8] [0x41#8]).expand }
    s.phase = .idle ∧ ControlInv s ∧ isChunkType [0x74#8, 0x45#8, 0x58#8, 0x74#8] = true ∧
    [0x41#8].length ≤ Config.maxLen ∧
    s.host = presented (Pseudo.serchunk [0x74#8, 0x45#8, 0x58#8, 0x74#8] [0x41#8]).expand ++ [] := by decide

theorem witness_PutInDLenTakesALengthByte :
    (inPhase .dLen).phase = .dLen ∧ (inPhase .dLen).pos ≠ 3#2 ∧ { inPhase .dLen with pos := 3#2 }.phase = .dLen ∧
    { inPhase .dLen with pos := 3#2 }.pos = 3#2 := by decide

theorem witness_PutInDTypeTakesATypeByte :
    (inPhase .dType).phase = .dType ∧ isLetter 0x31#8 = false ∧ isLetter 0x7A#8 = true ∧ (inPhase .dType).pos ≠ 3#2 ∧
    { inPhase .dType with pos := 3#2 }.pos = 3#2 ∧ { inPhase .dType with pos := 3#2 }.cnt = 0#32 ∧
    { inPhase .dType with pos := 3#2, cnt := 1#32, len := 1#32 }.cnt ≠ 0#32 := by decide

theorem witness_PutInDDataTakesADataByte :
    (oneByteLeft .dData).phase = .dData ∧ 1#32 ≤ (oneByteLeft .dData).cnt ∧ (oneByteLeft .dData).cnt = 1#32 ∧
    1#32 ≤ { oneByteLeft .dData with cnt := 2#32, len := 2#32 }.cnt ∧
    { oneByteLeft .dData with cnt := 2#32, len := 2#32 }.cnt ≠ 1#32 := by decide

/-- R135's example, both verdicts, and an earlier byte of the field. -/
theorem witness_PutInDCrcTakesAChecksumByte :
    (inPhase .dCrc).phase = .dCrc ∧ (inPhase .dCrc).pos ≠ 3#2 ∧
    (0x008CE52B#32 <<< 8) ||| (0x4D#8).setWidth 32 = 0x731AD4B2#32 ^^^ 0xFFFFFFFF#32 ∧
    (0x008CE52B#32 <<< 8) ||| (0x4D#8).setWidth 32 ≠ 0x4E7AFD02#32 ^^^ 0xFFFFFFFF#32 := by decide

/-- A state in IDLE, and bytes for each result of `deserialize`. -/
theorem witness_DeserializationTheorem :
    State.reset.phase = .idle ∧ ControlInv State.reset ∧
    deserialize [0#8, 0#8, 0#8, 0#8, 0x49#8, 0x45#8, 0x4E#8, 0x44#8, 0xAE#8, 0x42#8, 0x60#8, 0x82#8] =
      .ok [0x49#8, 0x45#8, 0x4E#8, 0x44#8] [] 0xAE426082#32 [] ∧
    deserialize [0#8, 0#8, 0#8, 0#8, 0x31#8] = .error .invalidChunkType ∧
    deserialize [0#8, 0#8, 0#8, 0#8, 0x49#8, 0x45#8, 0x4E#8, 0x44#8, 0#8, 0#8, 0#8, 0#8] = .error .checksumMismatch ∧
    deserialize [] = .error .truncated := by decide +kernel

/-- A decided session with a byte left over (V11, first row), and an undecided one. -/
theorem witness_VerdictComesAtTheEarliestByte :
    State.reset.phase = .idle ∧ ControlInv State.reset ∧
    (∃ u, desSession [0#8, 0#8, 0#8, 0#8, 0x31#8, 0x41#8] State.reset = .next (u, [0x41#8])) ∧
    deserialize [0#8, 0#8, 0#8, 0#8, 0x31#8, 0x41#8] ≠ .error .truncated ∧
    (∃ u, desSession [0#8] State.reset = .next (u, [])) ∧ deserialize [0#8] = .error .truncated :=
  ⟨by decide, by decide, ⟨_, rfl⟩, by decide, ⟨_, rfl⟩, by decide⟩

theorem witness_RoundTripOfSerializeAndDes :
    isChunkType [0x74#8, 0x45#8, 0x58#8, 0x74#8] = true ∧ [0x41#8].length ≤ Config.maxLen ∧
    State.reset.phase = .idle ∧ ControlInv State.reset := by decide

/-- V32a's chunk, 13 bytes: a type byte made another letter (offset 7) or no letter (offset 4), the data byte (offset 8),
the last checksum byte (offset 12). -/
theorem witness_OneWrongByteIsRefused :
    State.reset.phase = .idle ∧ ControlInv State.reset ∧ isChunkType [0x74#8, 0x45#8, 0x58#8, 0x74#8] = true ∧
    [0x41#8].length ≤ Config.maxLen ∧ 12 < 12 + [0x41#8].length ∧
    (serialize [0x74#8, 0x45#8, 0x58#8, 0x74#8] [0x41#8])[4]? ≠ some 0xF4#8 ∧ isLetter 0xF4#8 = false ∧
    (serialize [0x74#8, 0x45#8, 0x58#8, 0x74#8] [0x41#8])[7]? ≠ some 0x75#8 ∧ isLetter 0x75#8 = true ∧
    (serialize [0x74#8, 0x45#8, 0x58#8, 0x74#8] [0x41#8])[8]? ≠ some 0x42#8 ∧
    (serialize [0x74#8, 0x45#8, 0x58#8, 0x74#8] [0x41#8])[12]? ≠ some 0xE0#8 := by decide +kernel

theorem witness_OneWrongLengthByte :
    State.reset.phase = .idle ∧ ControlInv State.reset ∧ isChunkType [0x74#8, 0x45#8, 0x58#8, 0x74#8] = true ∧
    [0x41#8].length ≤ Config.maxLen ∧
    declaredLength ((serialize [0x74#8, 0x45#8, 0x58#8, 0x74#8] [0x41#8]).set 3 0x02#8) = 2 ∧ [0x41#8].length < 2 ∧
    declaredLength ((serialize [0x74#8, 0x45#8, 0x58#8, 0x74#8] [0x41#8]).set 3 0x00#8) = 0 ∧ 0 < [0x41#8].length := by
  decide

/-- One word and state for each of the four errors (also for `ErrorEntryKeepsTheEvidence` and
`IllegalCommandIsRaisedExactlyWhenStated`). -/
theorem witness_EachErrorHasItsCauseAndEvidence :
    (∃ t, execWord 0x0631#16 (inPhase .dType) = .next t ∧ t.phase = .error ∧ t.err = .invalidChunkType) ∧
    (∃ t, execWord 0x0600#16 { inPhase .dCrc with pos := 3#2, acc := 0x51BD9F7D#32 } = .next t ∧ t.phase = .error ∧
      t.err = .checksumMismatch) ∧
    (∃ t, execWord 0x0700#16 (inPhase .dLen) = .next t ∧ t.phase = .error ∧ t.err = .truncated) ∧
    (∃ t, execWord 0x0900#16 State.reset = .next t ∧ t.phase = .error ∧ t.err = .illegalCommand) ∧
    (inPhase .dType).phase ≠ .error ∧ (inPhase .dCrc).phase ≠ .error ∧ (inPhase .dLen).phase ≠ .error ∧
    State.reset.phase ≠ .error :=
  ⟨⟨_, rfl, by decide, by decide⟩, ⟨_, rfl, by decide, by decide⟩, ⟨_, rfl, by decide, by decide⟩,
    ⟨_, rfl, by decide, by decide⟩, by decide, by decide, by decide, by decide⟩

theorem witness_ErrorPhaseIgnoresEverythingButClr :
    inError.phase = .error ∧ 0x0801#16 ≠ 0x0800#16 ∧ ControlInv (inPhase .dLen) ∧
    (inPhase .dLen).phase.inOperation = true ∧ (∃ t, execWord 0x0700#16 (inPhase .dLen) = .next t ∧ t.phase = .error) :=
  ⟨by decide, by decide, by decide, by decide, ⟨_, rfl, by decide⟩⟩

theorem witness_ErrorIsLeftOnlyByClrOrReset :
    inError.phase = .error ∧ (∃ t, step (inError.present 0x0800#16) = .next t ∧ t.phase ≠ .error) ∧
    (∃ t, step { inError with host := [.reset [0x0000#16]] } = .next t ∧ t.phase ≠ .error) :=
  ⟨by decide, ⟨_, rfl, by decide⟩, ⟨_, rfl, by decide⟩⟩

theorem witness_RomHoldsTheTableOfTheBitStep : romRead 1020 4 ≠ none := by decide

theorem witness_CrcContinuesAfterRead :
    let s := { State.reset with
      host := presented ([Instr.crci] ++ (Pseudo.crcs [0x31#8]).expand ++ [Instr.crcr] ++ (Pseudo.crcs []).expand ++ [Instr.crcr]) }
    s.phase = .idle ∧ s.host =
      presented ([Instr.crci] ++ (Pseudo.crcs [0x31#8]).expand ++ [Instr.crcr] ++ (Pseudo.crcs []).expand ++ [Instr.crcr]) ++ [] := by
  decide

theorem witness_OneChangedByteChangesTheCrc : 0x00#8 ≠ 0x01#8 := by decide

/-- States in the data, type and checksum phases that meet the three invariants, and steps from them. -/
theorem witness_EveryStepKeepsTheInvariants :
    ControlInv (oneByteLeft .sData) ∧ CrcTracks (oneByteLeft .sData) ∧ TypeIsLetters (oneByteLeft .sData) ∧
    (∃ t, step ((oneByteLeft .sData).present 0x0641#16) = .next t) ∧
    ControlInv { inPhase .dType with pos := 1#2, typ := 0x49#32, acc := 0x22FDE946#32 } ∧
    CrcTracks { inPhase .dType with pos := 1#2, typ := 0x49#32, acc := 0x22FDE946#32 } ∧
    TypeIsLetters { inPhase .dType with pos := 1#2, typ := 0x49#32, acc := 0x22FDE946#32 } ∧
    (∃ t, step ({ inPhase .dType with pos := 1#2, typ := 0x49#32, acc := 0x22FDE946#32 }.present 0x0645#16) = .next t) :=
  ⟨by decide +kernel, by decide +kernel, by decide +kernel, ⟨_, rfl⟩, by decide +kernel, by decide +kernel, by decide +kernel, ⟨_, rfl⟩⟩

/-- A PUT that completes a serialization, one that completes a checked chunk of length 0, and a SER that clears `done`
(also for `CompletionMeansTheChecksumIsRight`). -/
theorem witness_DoneIsSetOnlyBySuccess :
    (∃ t, execWord 0x0641#16 (oneByteLeft .sData) = .next t ∧ (oneByteLeft .sData).done = false ∧ t.done = true) ∧
    ControlInv (oneByteLeft .sData) ∧ CrcTracks (oneByteLeft .sData) ∧
    (∃ t, execWord 0x0682#16 { inPhase .dCrc with
        pos := 3#2, typ := 0x49454E44#32, tfull := true, acc := 0x51BD9F7D#32, stored := 0x00AE4260#32 } = .next t ∧
      t.done = true) ∧
    ControlInv { inPhase .dCrc with
      pos := 3#2, typ := 0x49454E44#32, tfull := true, acc := 0x51BD9F7D#32, stored := 0x00AE4260#32 } ∧
    CrcTracks { inPhase .dCrc with
      pos := 3#2, typ := 0x49454E44#32, tfull := true, acc := 0x51BD9F7D#32, stored := 0x00AE4260#32 } ∧
    (∃ t, execWord 0x0400#16 { State.reset with done := true, tfull := true } = .next t ∧ t.done = false) :=
  ⟨⟨_, rfl, by decide +kernel, by decide +kernel⟩, by decide +kernel, by decide +kernel, ⟨_, rfl, by decide +kernel⟩, by decide +kernel, by decide +kernel,
    ⟨_, rfl, by decide⟩⟩

theorem witness_CompleteTypeIsImmutable :
    ControlInv (oneByteLeft .dData) ∧ (oneByteLeft .dData).tfull = true ∧
    (∃ t, execWord 0x0641#16 (oneByteLeft .dData) = .next t) ∧ decode 0x0641#16 ≠ .ok .ser ∧
    decode 0x0641#16 ≠ .ok .des ∧ decode 0x0641#16 ≠ .ok .clr :=
  ⟨by decide, by decide, ⟨_, rfl⟩, by decide, by decide, by decide⟩

theorem witness_StreamPositionAdvancesByOnePerPut :
    State.reset.phase = .idle ∧ ControlInv (oneByteLeft .dData) ∧ (oneByteLeft .dData).phase.inOperation = true ∧
    (∃ t, exec (.put 0x41#8) (oneByteLeft .dData) = .next t ∧ t.phase.inOperation = true) :=
  ⟨by decide, by decide, by decide, ⟨_, rfl, by decide⟩⟩

/-- The offsets where the fields of a chunk of two data bytes meet (R48). -/
theorem witness_LayoutMapOfASerializedChunk :
    [0x49#8, 0x45#8, 0x4E#8, 0x44#8].length = 4 ∧ [1#8, 2#8].length ≤ Config.maxLen ∧
    fieldAt 2 0 = some .length ∧ fieldAt 2 3 = some .length ∧ fieldAt 2 4 = some .type ∧ fieldAt 2 7 = some .type ∧
    fieldAt 2 8 = some .data ∧ fieldAt 2 9 = some .data ∧ fieldAt 2 10 = some .checksum ∧
    fieldAt 2 13 = some .checksum ∧ fieldAt 2 14 = none := by decide

end Sys2Proof.Tests
end

section
/-! PROOFS of the family 10_state: reset values and status wires (O1, O3), the three invariants (O52 to O55), when
`done` moves (O56, O57) and the stream position (O59). -/

namespace Sys2Proof.Machine

/-! ### Reset and the wires -/

/-- CLR and reset share `resetRegs`, so R36 is checked once. -/
theorem atResetValues_resetRegs (s : State) : AtResetValues (resetRegs s) := by
  simp [AtResetValues, Phase.code, ErrCode.code]

theorem step_reset {s : State} {ws : List CmdWord} {rest : List HostEvent} (h : s.host = .reset ws :: rest) :
    step s = .next (resetRegs { s with host := rest }) := by
  simp [step, fetch, h, takeReset]

/-- Settles O1: CLR and reset both are `resetRegs`, which writes the values of R36. -/
theorem resetAndClrLeaveTheResetValues : Obligations.ResetAndClrLeaveTheResetValues := by
  refine ⟨atResetValues_resetRegs .reset, rfl, fun s => ?_, fun s ws rest hh => ?_, fun s hs => ?_⟩
  · exact ⟨resetRegs s, rfl, atResetValues_resetRegs s, rfl⟩
  · exact ⟨_, step_reset hh, atResetValues_resetRegs _, rfl⟩
  · obtain ⟨hacc, -, -, -, -, -, -, -, -, -, htfull⟩ := hs
    simp [State.crcO, fin, hacc, Config.xorOut, State.fCritical, State.fPublic, State.fValid, State.fSafe, htfull]

/-- Only ERROR has the number 8 (R24). -/
theorem phase_code_eq_eight_iff (p : Phase) : p.code = 8#4 ↔ p = .error := by cases p <;> decide

theorem phase_code_le_eight (p : Phase) : p.code.toNat ≤ 8 := by cases p <;> decide

/-- Settles O3: each wire is defined as its register; `err_o` is read off the phase's number. -/
theorem wiresShowTheRegisters : Obligations.WiresShowTheRegisters := by
  intro s
  have herr : s.wires.errO = true ↔ s.wires.phase = 8#4 := by
    simp [State.wires, State.errO, phase_code_eq_eight_iff]
  exact ⟨by simp [State.wires], rfl, by simp [State.wires], herr, rfl, by simp [Phase.code],
    phase_code_le_eight s.phase⟩

/-! ### Steps and words, for any property -/

/-- A property of the registers and of `OUT` that reset establishes and every word keeps is kept by every step. -/
theorem step_keeps {P : State → Prop} (hHost : ∀ s rest, P s → P { s with host := rest })
    (hReset : ∀ s, P (resetRegs s)) (hWord : ∀ d s t, P s → WordEffect d s t → P t)
    {s t : State} (hs : P s) (h : step s = .next t) : P t := by
  rcases step_effect h with ⟨-, rfl⟩ | ⟨-, rest, -, rfl⟩ | ⟨w, rest, -, hw⟩
  · exact hs
  · exact hReset _
  · exact hWord _ _ _ (hHost s rest hs) (word_effect hw)

/-- The outline of a word, for properties of an open operation: the word changes nothing, or leaves no operation open
and changes the type code only by clearing it, or opens an operation, or is a PUT inside one. -/
theorem WordEffect.outline {d : Except IllegalWord Instr} {s t : State} (h : WordEffect d s t) :
    t = s ∨
    (t.phase.inOperation = false ∧ (t.tfull = false ∨ t.tfull = s.tfull ∧ t.typ = s.typ)) ∨
    (∃ p, (p = .sLen ∨ p = .dLen) ∧ t = startOperation p s) ∨
    (∃ b, PutEffect b s t) := by
  cases h with
  | nothing => exact .inl rfl
  | clear => exact .inr (.inl ⟨rfl, .inl rfl⟩)
  | truncated | illegal | putNowhere | wrongPhase => exact .inr (.inl ⟨rfl, .inr ⟨rfl, rfl⟩⟩)
  | preset hp | feed hp | read hp => exact .inr (.inl ⟨by simp [hp, Phase.inOperation], .inr ⟨rfl, rfl⟩⟩)
  | startSer => exact .inr (.inr (.inl ⟨.sLen, .inl rfl, rfl⟩))
  | startDes => exact .inr (.inr (.inl ⟨.dLen, .inr rfl, rfl⟩))
  | put b _ _ _ hput => exact .inr (.inr (.inr ⟨b, hput⟩))

/-! ### The control invariant -/

theorem controlInv_resetRegs (s : State) : ControlInv (resetRegs s) := by
  simp [ControlInv, ErrorRecord, PosAtRest, CntTracks, TfullTracks, DoneTracks, Phase.inOperation]

/-- Error entry from outside ERROR needs only that `done` implies `tfull`: the other clauses speak of other phases. -/
theorem controlInv_raise {e : ErrCode} {s : State} (he : e ≠ .none) (hp : s.phase ≠ .error)
    (hd : s.done = true → s.tfull = true) : ControlInv (raise e s) := by
  simpa [ControlInv, ErrorRecord, PosAtRest, CntTracks, TfullTracks, DoneTracks, Phase.inOperation, he, hp] using hd

theorem controlInv_startOperation {p : Phase} {s : State} (hp : p = .sLen ∨ p = .dLen) (hs : s.phase = .idle)
    (hr : ErrorRecord s) : ControlInv (startOperation p s) := by
  obtain ⟨herr, heph, -⟩ := hr
  rcases hp with rfl | rfl <;> simp_all [ControlInv, ErrorRecord, PosAtRest, CntTracks, TfullTracks, DoneTracks]

section PutKeeps
variable {b : Byte} {s t : State}

theorem PutEffect.errorRecord (h : PutEffect b s t) (hs : ErrorRecord s) : ErrorRecord t := by
  cases h
  case badType hp _ => rcases hp with hp | hp <;> simp_all [ErrorRecord]
  all_goals simp_all [ErrorRecord]

theorem PutEffect.posAtRest (h : PutEffect b s t) (hs : PosAtRest s) : PosAtRest t := by
  cases h <;> simp_all [PosAtRest]

theorem cntTracks_dataPhase (hp : s.phase = .sData ∨ s.phase = .dData) (h : 1#32 ≤ s.cnt ∧ s.cnt ≤ s.len) :
    CntTracks s := by
  rcases hp with hp | hp <;> simp [CntTracks, hp, h]

/-- `cnt` is loaded with the length, kept through the type phase, and counted down but never below 1 in a data phase. -/
theorem PutEffect.cntTracks (h : PutEffect b s t) (hs : CntTracks s) : CntTracks t := by
  obtain ⟨hzero, hlen, hdata⟩ := hs
  cases h
  case serTypeFull hp _ _ hcnt | desTypeFull hp _ _ hcnt =>
    have heq := hlen (by simp [hp])
    exact cntTracks_dataPhase (by simp) (by bv_omega)
  case serData hp hcnt | desData hp hcnt =>
    obtain ⟨hge, hle⟩ := hdata (by simp [hp])
    exact cntTracks_dataPhase (by simp [hp]) (by bv_omega)
  all_goals simp_all [CntTracks]

/-- The type code is complete from the fourth letter on. -/
theorem PutEffect.tfullTracks (h : PutEffect b s t) (hs : TfullTracks s) : TfullTracks t := by
  cases h <;> simp_all [TfullTracks]

/-- A PUT that sets `done` finds `tfull` set or sets it too. -/
theorem PutEffect.doneTracks (h : PutEffect b s t) (hf : TfullTracks s) (hs : DoneTracks s) : DoneTracks t := by
  cases h <;> simp_all [TfullTracks, DoneTracks, Phase.inOperation]

theorem PutEffect.controlInv (h : PutEffect b s t) (hs : ControlInv s) : ControlInv t := by
  obtain ⟨herr, hpos, hcnt, hfull, hdone⟩ := hs
  exact ⟨h.errorRecord herr, h.posAtRest hpos, h.cntTracks hcnt, h.tfullTracks hfull, h.doneTracks hfull hdone⟩

end PutKeeps

theorem WordEffect.controlInv {d : Except IllegalWord Instr} {s t : State} (h : WordEffect d s t)
    (hs : ControlInv s) : ControlInv t := by
  have ⟨herr, _, _, _, _, hdone⟩ := hs
  cases h with
  | nothing => exact hs
  | clear => exact controlInv_resetRegs s
  | truncated ho => exact controlInv_raise (by decide) ((inOperation_iff _).1 ho).2 hdone
  | illegal hp => exact controlInv_raise (by decide) hp hdone
  | putNowhere hp => exact controlInv_raise (by decide) (by simp [hp]) hdone
  | wrongPhase ho => exact controlInv_raise (by decide) ((inOperation_iff _).1 ho).2 hdone
  | preset | feed | read => exact hs
  | startSer hp => exact controlInv_startOperation (.inl rfl) hp herr
  | startDes hp => exact controlInv_startOperation (.inr rfl) hp herr
  | put _ _ _ _ hput => exact hput.controlInv hs

/-- Settles O52: each clause of R34 is kept by each effect of a word. -/
theorem everyStepKeepsTheControlInvariant : Obligations.EveryStepKeepsTheControlInvariant :=
  fun _ _ hs h => step_keeps (fun _ _ hs => hs) controlInv_resetRegs (fun _ _ _ hs hw => hw.controlInv hs) hs h

/-- A property kept under the control invariant: `step_keeps` for the two together. -/
theorem step_keeps_under_controlInv {P : State → Prop} (hHost : ∀ s rest, P s → P { s with host := rest })
    (hReset : ∀ s, P (resetRegs s)) (hWord : ∀ d s t, ControlInv s → P s → WordEffect d s t → P t)
    {s t : State} (hc : ControlInv s) (hs : P s) (h : step s = .next t) : P t :=
  (step_keeps (P := fun s => ControlInv s ∧ P s) (fun s rest ⟨hc, hs⟩ => ⟨hc, hHost s rest hs⟩)
    (fun s => ⟨controlInv_resetRegs s, hReset s⟩) (fun d s t ⟨hc, hs⟩ hw => ⟨hw.controlInv hc, hWord d s t hc hs hw⟩)
    ⟨hc, hs⟩ h).2

/-! ### The bytes taken so far -/

section Taken
variable {b : Byte} {s t : State}

theorem pos_toNat_succ {p : BitVec 2} (h : p ≠ 3#2) : (p + 1#2).toNat = p.toNat + 1 := by bv_omega

/-- At the start of a type field nothing of it is taken. -/
theorem typeBytesTaken_of_pos_zero (h : s.pos = 0#2) : typeBytesTaken s = [] := by
  simp [typeBytesTaken, h]

/-- A type byte that does not complete the field joins the bytes taken. -/
theorem typeBytesTaken_shiftIn (htyp : t.typ = shiftIn s.typ b) (hp : s.pos ≠ 3#2) (hpos : t.pos = s.pos + 1#2) :
    typeBytesTaken t = typeBytesTaken s ++ [b] := by
  have hlt : s.pos.toNat < 3 := by bv_omega
  rw [typeBytesTaken, typeBytesTaken, htyp, hpos, pos_toNat_succ hp, be32_shiftIn,
    List.drop_append_of_le_length (by simp), List.drop_drop]
  congr 2
  omega

/-- The fourth type byte makes the bytes taken the whole field. -/
theorem be32_typ_full (b : Byte) (hp : s.pos = 3#2) : be32 (shiftIn s.typ b) = typeBytesTaken s ++ [b] := by
  simp [typeBytesTaken, hp, be32_shiftIn]

theorem dataTaken_of_cnt_eq_len (h : s.cnt = s.len) : dataTaken s = 0 := by simp [dataTaken, h]

/-- Counting `cnt` down by one is taking one data byte. -/
theorem dataTaken_succ (hlen : t.len = s.len) (hcnt : t.cnt = s.cnt - 1#32) (hge : 1#32 ≤ s.cnt) (hle : s.cnt ≤ s.len) :
    dataTaken t = dataTaken s + 1 := by
  rw [dataTaken, dataTaken, hlen, hcnt]
  bv_omega

theorem dataBytesTaken_of_none (h : dataTaken s = 0) : dataBytesTaken s = [] := by simp [dataBytesTaken, h]

/-- A data byte emitted joins the data bytes taken. -/
theorem dataBytesTaken_append (hout : t.out = s.out ++ [b]) (htaken : dataTaken t = dataTaken s + 1) :
    dataBytesTaken t = dataBytesTaken s ++ [b] := by
  rw [dataBytesTaken, dataBytesTaken, hout, htaken, List.drop_append_of_le_length (by simp)]
  congr 2
  simp

theorem dataBytesTaken_length (hle : dataTaken s ≤ s.out.length) : (dataBytesTaken s).length = dataTaken s := by
  simp [dataBytesTaken]; omega

end Taken

/-! ### The CRC invariant -/

/-- Feeding one more byte to an `acc` that covers `bs` covers `bs ++ [b]`. -/
theorem upd_updAll (a : Word) (bs : List Byte) (b : Byte) : upd (updAll a bs) b = updAll a (bs ++ [b]) := by
  rw [updAll_append]; rfl

/-- Outside an operation `CrcTracks` says nothing. -/
theorem crcTracks_of_not_inOperation {s : State} (h : s.phase.inOperation = false) : CrcTracks s := by
  cases hp : s.phase <;> simp_all [CrcTracks, Phase.inOperation]

theorem crcTracks_lengthPhase {s : State} (hp : s.phase = .sLen ∨ s.phase = .dLen) (hacc : s.acc = Config.init) :
    CrcTracks s := by
  rcases hp with hp | hp <;> simp [CrcTracks, hp, hacc]

theorem crcTracks_typePhase {s : State} (hp : s.phase = .sType ∨ s.phase = .dType)
    (hacc : s.acc = updAll Config.init (typeBytesTaken s)) : CrcTracks s := by
  rcases hp with hp | hp <;> simp [CrcTracks, hp, hacc]

theorem crcTracks_dataPhase {s : State} (hp : s.phase = .sData ∨ s.phase = .dData ∨ s.phase = .dCrc)
    (hle : dataTaken s ≤ s.out.length) (hacc : s.acc = updAll Config.init (be32 s.typ ++ dataBytesTaken s)) :
    CrcTracks s := by
  rcases hp with hp | hp | hp <;> simp [CrcTracks, hp, hle, hacc]

section PutCrc
variable {b : Byte} {s t : State}

/-- `acc` after a type byte covers the type bytes taken with that one. -/
theorem upd_acc_typeByte (hs : CrcTracks s) (hp : s.phase = .sType ∨ s.phase = .dType) :
    upd s.acc b = updAll Config.init (typeBytesTaken s ++ [b]) := by
  obtain ⟨-, htype, -⟩ := hs
  rw [htype hp, upd_updAll]

/-- `acc` after the fourth type byte covers the whole type code. -/
theorem upd_acc_typ_full (hs : CrcTracks s) (hp : s.phase = .sType ∨ s.phase = .dType) (hpos : s.pos = 3#2) :
    upd s.acc b = updAll Config.init (be32 (shiftIn s.typ b)) := by
  rw [upd_acc_typeByte hs hp, be32_typ_full b hpos]

/-- `acc` after a data byte covers the type code and the data bytes taken with that one. -/
theorem upd_acc_dataByte (hs : CrcTracks s) (hp : s.phase = .sData ∨ s.phase = .dData) :
    upd s.acc b = updAll Config.init (be32 s.typ ++ (dataBytesTaken s ++ [b])) := by
  obtain ⟨-, -, hdata⟩ := hs
  obtain ⟨-, hacc⟩ := hdata (hp.imp_right .inl)
  rw [hacc, upd_updAll, List.append_assoc]

/-- A type byte, not the fourth. -/
theorem crcTracks_typeByte (hs : CrcTracks s) (hp : s.phase = .sType ∨ s.phase = .dType) (hpos : s.pos ≠ 3#2)
    (htp : t.phase = s.phase) (htyp : t.typ = shiftIn s.typ b) (htpos : t.pos = s.pos + 1#2)
    (hacc : t.acc = upd s.acc b) : CrcTracks t := by
  refine crcTracks_typePhase (htp ▸ hp) ?_
  rw [hacc, upd_acc_typeByte hs hp, typeBytesTaken_shiftIn htyp hpos htpos]

/-- The fourth type byte, data or the checksum to come. -/
theorem crcTracks_typeFull (hs : CrcTracks s) (hp : s.phase = .sType ∨ s.phase = .dType) (hpos : s.pos = 3#2)
    (htp : t.phase = .sData ∨ t.phase = .dData ∨ t.phase = .dCrc) (htyp : t.typ = shiftIn s.typ b)
    (hcnt : t.cnt = t.len) (hacc : t.acc = upd s.acc b) : CrcTracks t := by
  have hnone := dataTaken_of_cnt_eq_len hcnt
  refine crcTracks_dataPhase htp (by simp [hnone]) ?_
  rw [hacc, upd_acc_typ_full hs hp hpos, htyp, dataBytesTaken_of_none hnone, List.append_nil]

/-- A data byte, more data or the checksum to come. -/
theorem crcTracks_dataByte (hs : CrcTracks s) (hp : s.phase = .sData ∨ s.phase = .dData)
    (htp : t.phase = .sData ∨ t.phase = .dData ∨ t.phase = .dCrc) (htyp : t.typ = s.typ)
    (htaken : dataTaken t = dataTaken s + 1) (hout : t.out = s.out ++ [b]) (hacc : t.acc = upd s.acc b) :
    CrcTracks t := by
  have ⟨_, _, hdata⟩ := hs
  obtain ⟨hle, -⟩ := hdata (hp.imp_right .inl)
  refine crcTracks_dataPhase htp (by simp [htaken, hout, hle]) ?_
  rw [hacc, upd_acc_dataByte hs hp, htyp, dataBytesTaken_append hout htaken]

theorem PutEffect.crcTracks (h : PutEffect b s t) (hc : CntTracks s) (hs : CrcTracks s) : CrcTracks t := by
  obtain ⟨-, hcntType, hcntData⟩ := hc
  have ⟨hpreset, _, hdata⟩ := hs
  cases h
  case serLength hp _ => exact crcTracks_lengthPhase (.inl hp) (hpreset (.inl hp))
  case desLength hp _ => exact crcTracks_lengthPhase (.inr hp) (hpreset (.inr hp))
  case serLengthFull hp _ =>
    exact crcTracks_typePhase (.inl rfl) (by simpa [typeBytesTaken_of_pos_zero] using hpreset (.inl hp))
  case desLengthFull hp _ =>
    exact crcTracks_typePhase (.inr rfl) (by simpa [typeBytesTaken_of_pos_zero] using hpreset (.inr hp))
  case serType hp _ hpos => exact crcTracks_typeByte hs (.inl hp) hpos rfl rfl rfl rfl
  case desType hp _ hpos => exact crcTracks_typeByte hs (.inr hp) hpos rfl rfl rfl rfl
  case serTypeFull hp _ hpos _ => exact crcTracks_typeFull hs (.inl hp) hpos (.inl rfl) rfl (hcntType (.inl hp)) rfl
  case desTypeFull hp _ hpos _ =>
    exact crcTracks_typeFull hs (.inr hp) hpos (.inr (.inl rfl)) rfl (hcntType (.inr hp)) rfl
  case desTypeLast hp _ hpos _ =>
    exact crcTracks_typeFull hs (.inr hp) hpos (.inr (.inr rfl)) rfl (hcntType (.inr hp)) rfl
  case serData hp _ =>
    obtain ⟨hge, hle⟩ := hcntData (.inl hp)
    exact crcTracks_dataByte hs (.inl hp) (.inl hp) rfl (dataTaken_succ rfl rfl hge hle) rfl rfl
  case desData hp _ =>
    obtain ⟨hge, hle⟩ := hcntData (.inr hp)
    exact crcTracks_dataByte hs (.inr hp) (.inr (.inl hp)) rfl (dataTaken_succ rfl rfl hge hle) rfl rfl
  case desDataLast hp hcnt =>
    obtain ⟨hge, hle⟩ := hcntData (.inr hp)
    exact crcTracks_dataByte hs (.inr hp) (.inr (.inr rfl)) rfl (dataTaken_succ rfl (by simp [hcnt]) hge hle) rfl rfl
  case checksumByte hp _ =>
    obtain ⟨hle, hacc⟩ := hdata (.inr (.inr hp))
    exact crcTracks_dataPhase (.inr (.inr hp)) hle hacc
  case badType | serTypeLast | serDataLast | checksumRight | checksumWrong => exact crcTracks_of_not_inOperation rfl

end PutCrc

theorem WordEffect.crcTracks {d : Except IllegalWord Instr} {s t : State} (h : WordEffect d s t) (hc : CntTracks s)
    (hs : CrcTracks s) : CrcTracks t := by
  rcases h.outline with rfl | ⟨hout, -⟩ | ⟨p, hp, rfl⟩ | ⟨b, hput⟩
  · exact hs
  · exact crcTracks_of_not_inOperation hout
  · exact crcTracks_lengthPhase hp rfl
  · exact hput.crcTracks hc hs

/-- Settles O53: a PUT feeds `acc` exactly the byte that joins the bytes taken; every other word leaves `acc`, presets
it, or leaves no operation open. -/
theorem everyStepKeepsTheCrcInvariant : Obligations.EveryStepKeepsTheCrcInvariant :=
  fun _ _ => step_keeps_under_controlInv (fun _ _ hs => hs) (fun _ => crcTracks_of_not_inOperation rfl)
    fun _ _ _ ⟨_, _, hc, _, _⟩ hs hw => hw.crcTracks hc hs

/-! ### The type letters -/

section PutLetters
variable {b : Byte} {s t : State}

/-- Outside the type phases only a complete type code is spoken of. -/
theorem typeIsLetters_of_not_typePhase (hp : t.phase ≠ .sType ∧ t.phase ≠ .dType)
    (hfull : t.tfull = true → isChunkType (be32 t.typ) = true) : TypeIsLetters t :=
  ⟨fun h => absurd h (not_or.2 hp), hfull⟩

/-- The fourth letter makes a ChunkType of the three before it (R81). -/
theorem isChunkType_typ_full (hs : TypeIsLetters s) (hp : s.phase = .sType ∨ s.phase = .dType) (hpos : s.pos = 3#2)
    (hb : isLetter b = true) : isChunkType (be32 (shiftIn s.typ b)) = true := by
  obtain ⟨htaken, -⟩ := hs
  rw [isChunkType, be32_length, be32_typ_full b hpos, List.all_append, htaken hp]
  simp [hb]

/-- A letter, not the fourth. -/
theorem typeIsLetters_typeByte (hs : TypeIsLetters s) (hp : s.phase = .sType ∨ s.phase = .dType)
    (hb : isLetter b = true) (hpos : s.pos ≠ 3#2) (htyp : t.typ = shiftIn s.typ b) (htpos : t.pos = s.pos + 1#2)
    (hfull : t.tfull = false) : TypeIsLetters t := by
  obtain ⟨htaken, -⟩ := hs
  refine ⟨fun _ => ?_, by simp [hfull]⟩
  rw [typeBytesTaken_shiftIn htyp hpos htpos, List.all_append, htaken hp]
  simp [hb]

theorem PutEffect.typeIsLetters (h : PutEffect b s t) (hf : TfullTracks s) (hs : TypeIsLetters s) :
    TypeIsLetters t := by
  obtain ⟨-, hopen⟩ := hf
  have ⟨_, hfull⟩ := hs
  cases h
  case serLengthFull | desLengthFull => exact ⟨fun _ => by rw [typeBytesTaken_of_pos_zero rfl]; rfl, hfull⟩
  case badType hp _ => exact typeIsLetters_of_not_typePhase (by simp) (by simp [hopen (.inr (.inr hp))])
  case serType hp hb hpos => exact typeIsLetters_typeByte hs (.inl hp) hb hpos rfl rfl (hopen (.inr (.inr (.inl hp))))
  case desType hp hb hpos => exact typeIsLetters_typeByte hs (.inr hp) hb hpos rfl rfl (hopen (.inr (.inr (.inr hp))))
  case serTypeFull hp hb hpos _ | serTypeLast hp hb hpos _ =>
    exact typeIsLetters_of_not_typePhase (by simp) fun _ => isChunkType_typ_full hs (.inl hp) hpos hb
  case desTypeFull hp hb hpos _ | desTypeLast hp hb hpos _ =>
    exact typeIsLetters_of_not_typePhase (by simp) fun _ => isChunkType_typ_full hs (.inr hp) hpos hb
  case serLength hp _ | desLength hp _ | serData hp _ | desData hp _ | checksumByte hp _ =>
    exact typeIsLetters_of_not_typePhase (by simp [hp]) hfull
  case serDataLast | desDataLast | checksumRight | checksumWrong =>
    exact typeIsLetters_of_not_typePhase (by simp) hfull

end PutLetters

theorem WordEffect.typeIsLetters {d : Except IllegalWord Instr} {s t : State} (h : WordEffect d s t)
    (hf : TfullTracks s) (hs : TypeIsLetters s) : TypeIsLetters t := by
  rcases h.outline with rfl | ⟨hout, htype⟩ | ⟨p, hp, rfl⟩ | ⟨b, hput⟩
  · exact hs
  · refine typeIsLetters_of_not_typePhase ?_ ?_
    · constructor <;> intro hp <;> simp [hp, Phase.inOperation] at hout
    · obtain ⟨-, hchunk⟩ := hs
      rcases htype with hfull | ⟨hfull, htyp⟩
      · simp [hfull]
      · rwa [hfull, htyp]
  · exact typeIsLetters_of_not_typePhase (by rcases hp with rfl | rfl <;> simp) (by simp)
  · exact hput.typeIsLetters hf hs

theorem typeIsLetters_resetRegs (s : State) : TypeIsLetters (resetRegs s) :=
  typeIsLetters_of_not_typePhase (by simp) (by simp)

/-- Settles O54: only a letter joins the type bytes taken, and `tfull` is set by the fourth. -/
theorem everyStepKeepsTheTypeLetters : Obligations.EveryStepKeepsTheTypeLetters :=
  fun _ _ => step_keeps_under_controlInv (fun _ _ hs => hs) typeIsLetters_resetRegs
    fun _ _ _ ⟨_, _, _, hf, _⟩ hs hw => hw.typeIsLetters hf hs

/-- Settles O55: the reset state is what CLR makes of it, and CLR establishes the invariants. -/
theorem resetMeetsTheInvariants : Obligations.ResetMeetsTheInvariants :=
  ⟨controlInv_resetRegs .reset, crcTracks_of_not_inOperation rfl, typeIsLetters_resetRegs .reset⟩

/-! ### When `done` moves -/

theorem PutEffect.done_kept {b : Byte} {s t : State} (h : PutEffect b s t) (hs : s.done = true) : t.done = true := by
  cases h <;> simp [hs]

/-- Among the words only a PUT inside an operation sets `done`. -/
theorem WordEffect.put_of_done_set {d : Except IllegalWord Instr} {s t : State} (h : WordEffect d s t)
    (hs : s.done = false) (ht : t.done = true) : ∃ b, d = .ok (.put b) ∧ PutEffect b s t := by
  cases h
  case put b hd _ hput => exact ⟨b, hd, hput⟩
  all_goals simp [hs] at ht

theorem WordEffect.starts_or_clears_of_done_cleared {d : Except IllegalWord Instr} {s t : State}
    (h : WordEffect d s t) (hs : s.done = true) (ht : t.done = false) :
    d = .ok .ser ∨ d = .ok .des ∨ d = .ok .clr := by
  cases h
  case startSer _ hd => exact .inl hd
  case startDes _ hd => exact .inr (.inl hd)
  case clear hd => exact .inr (.inr hd)
  case put _ _ _ hput => simp [hput.done_kept hs] at ht
  all_goals simp [hs] at ht

/-- Settles O56: `done` rises in the three completions of R115 and R135 and falls only where registers are preset. -/
theorem doneIsSetOnlyBySuccess : Obligations.DoneIsSetOnlyBySuccess := by
  refine ⟨fun w s t h hs ht => ?_, fun w s t h hs ht => (word_effect h).starts_or_clears_of_done_cleared hs ht⟩
  obtain ⟨b, hd, hput⟩ := (word_effect h).put_of_done_set hs ht
  refine ⟨b, hd, ?_⟩
  cases hput
  case serTypeLast hp hb hpos hcnt => exact .inl ⟨hp, hpos, hcnt, hb⟩
  case serDataLast hp hcnt => exact .inr (.inl ⟨hp, hcnt⟩)
  case checksumRight hp hpos heq => exact .inr (.inr ⟨hp, hpos, heq⟩)
  all_goals simp [hs] at ht

/-- What was in `OUT` before the data bytes, and the data bytes. -/
theorem out_eq_append_dataBytesTaken (s : State) :
    s.out = s.out.take (s.out.length - dataTaken s) ++ dataBytesTaken s :=
  (List.take_append_drop _ _).symm

/-- A PUT that sets `done`, for each of the three completions of R115 and R135. -/
theorem PutEffect.checksum_right_of_done_set {b : Byte} {s t : State} (h : PutEffect b s t) (hcnt : CntTracks s)
    (hcrc : CrcTracks s) (hs : s.done = false) (ht : t.done = true) :
    t.stored = fin t.acc ∧
    ∃ before data : List Byte, data.length = t.len.toNat ∧ t.stored = crc32 (be32 t.typ ++ data) ∧
      (s.phase = .dCrc → t.out = before ++ data) ∧
      (s.phase ≠ .dCrc → t.out = before ++ data ++ be32 t.stored) := by
  obtain ⟨hzero, hlen, hcount⟩ := hcnt
  have ⟨_, _, hdata⟩ := hcrc
  cases h
  case serTypeLast hp _ hpos h0 =>
    have hl := hlen (.inl hp)
    refine ⟨rfl, s.out ++ [b], [], by simp [← hl, h0], ?_, by simp [hp], by simp⟩
    simp [crc32, upd_acc_typ_full hcrc (.inl hp) hpos]
  case serDataLast hp h1 =>
    obtain ⟨hge, hle⟩ := hcount (.inl hp)
    obtain ⟨hout, -⟩ := hdata (.inl hp)
    refine ⟨rfl, s.out.take (s.out.length - dataTaken s), dataBytesTaken s ++ [b], ?_, ?_, by simp [hp], fun _ => ?_⟩
    · rw [List.length_append, dataBytesTaken_length hout, dataTaken, h1, List.length_singleton]
      bv_omega
    · rw [crc32, upd_acc_dataByte hcrc (.inl hp)]
    · rw [← List.append_assoc _ (dataBytesTaken s), ← out_eq_append_dataBytesTaken]
  case checksumRight hp _ heq =>
    obtain ⟨hout, hacc⟩ := hdata (.inr (.inr hp))
    refine ⟨heq, _, dataBytesTaken s, ?_, ?_, fun _ => out_eq_append_dataBytesTaken s, by simp [hp]⟩
    · simp [dataBytesTaken_length hout, dataTaken, hzero (.inr (.inr hp))]
    · rw [heq, hacc, crc32]
  all_goals simp [hs] at ht

/-- Settles O57: at each completion `acc` covers the type code and all `len` data bytes. -/
theorem completionMeansTheChecksumIsRight : Obligations.CompletionMeansTheChecksumIsRight := by
  intro w s t ⟨_, _, hcnt, _, _⟩ hcrc h hs ht
  obtain ⟨b, -, hput⟩ := (word_effect h).put_of_done_set hs ht
  exact hput.checksum_right_of_done_set hcnt hcrc hs ht

/-! ### The stream position -/

/-- A PUT that leaves the operation open moves the stream position on by one, also where one field of the chunk ends and
the next begins. -/
theorem PutEffect.offset_succ {b : Byte} {s t : State} (h : PutEffect b s t) (hpos : PosAtRest s) (hcnt : CntTracks s)
    (ht : t.phase.inOperation = true) : ∃ k, s.offset = some k ∧ t.offset = some (k + 1) := by
  obtain ⟨-, hlen, hdata⟩ := hcnt
  cases h
  case serLength hp hne | desLength hp hne =>
    exact ⟨s.pos.toNat, by simp [State.offset, hp], by simp [State.offset, hp, pos_toNat_succ hne]⟩
  case serLengthFull hp h3 | desLengthFull hp h3 =>
    exact ⟨3, by simp [State.offset, hp, h3], by simp [State.offset]⟩
  case serType hp _ hne | desType hp _ hne =>
    exact ⟨4 + s.pos.toNat, by simp [State.offset, hp], by simp [State.offset, hp, pos_toNat_succ hne, Nat.add_assoc]⟩
  case serTypeFull hp _ h3 _ | desTypeFull hp _ h3 _ =>
    exact ⟨7, by simp [State.offset, hp, h3], by simp [State.offset, hlen (by simp [hp])]⟩
  case desTypeLast hp _ h3 h0 =>
    exact ⟨7, by simp [State.offset, hp, h3], by simp [State.offset, ← hlen (.inr hp), h0]⟩
  case serData hp _ | desData hp _ =>
    obtain ⟨hge, hle⟩ := hdata (by simp [hp])
    refine ⟨8 + (s.len.toNat - s.cnt.toNat), by simp [State.offset, hp], ?_⟩
    simp only [State.offset, hp, Option.some.injEq]
    bv_omega
  case desDataLast hp h1 =>
    obtain ⟨-, hle⟩ := hdata (.inr hp)
    have h0 := hpos (.inr (.inr hp))
    refine ⟨8 + (s.len.toNat - s.cnt.toNat), by simp [State.offset, hp], ?_⟩
    simp only [State.offset, h0, h1, Option.some.injEq]
    bv_omega
  case checksumByte hp hne =>
    exact ⟨8 + s.len.toNat + s.pos.toNat, by simp [State.offset, hp],
      by simp [State.offset, hp, pos_toNat_succ hne, Nat.add_assoc]⟩
  case badType | serTypeLast | serDataLast | checksumRight | checksumWrong => simp [Phase.inOperation] at ht

/-- Settles O59: SER and DES put `pos` at 0 in a length phase, and a PUT inside the operation moves the position on by
one. -/
theorem streamPositionAdvancesByOnePerPut : Obligations.StreamPositionAdvancesByOnePerPut := by
  refine ⟨fun s hs => ⟨⟨startOperation .sLen s, ?_, rfl, rfl⟩, ⟨startOperation .dLen s, ?_, rfl, rfl⟩⟩, ?_⟩
  · simp [exec, execSer, onlyInIdle_idle hs]
  · simp [exec, execDes, onlyInIdle_idle hs]
  · intro b s t ⟨_, hpos, hcnt, _, _⟩ ho h ht
    exact (put_effect ho h).offset_succ hpos hcnt ht

end Sys2Proof.Machine
end

section
/-! PROOFS of the family 20_memory: the words the host presents (O10), what a step depends on (O14), the growth of `OUT`
(O15) and the layout of a serialized chunk (O60). -/

namespace Sys2Proof.Machine

/-! ### The word presented next -/

theorem step_command {s : State} {w : CmdWord} {rest : List HostEvent} (h : s.host = .command w :: rest) :
    step s = execWord w { s with host := rest } := by
  simp [step, fetch, h]

theorem execWord_of_decode_ok {w : CmdWord} {i : Instr} (h : decode w = .ok i) (s : State) :
    execWord w s = exec i s := by
  simp [execWord, h]

theorem execWord_of_decode_error {w : CmdWord} {k : IllegalWord} (h : decode w = .error k) (s : State) :
    execWord w s = .next (illegalWord s) := by
  simp [execWord, h]

/-- Settles O10: the step fetches the word, and the word runs the command it decodes to. -/
theorem stepRunsTheDecodedCommand : Obligations.StepRunsTheDecodedCommand := by
  intro s w rest i hhost hdecode
  rw [step_command hhost, execWord_of_decode_ok hdecode]

/-! ### The surroundings of a step: what is in `OUT` already, and what the host presents later -/

/-- `s` with other surroundings: `history` in `OUT` before its own bytes, and `later` still to come from the host. -/
def surround (history : List Byte) (later : List HostEvent) (s : State) : State :=
  { s with out := history ++ s.out, host := later }

section Surround
variable {history : List Byte} {later : List HostEvent} {s t : State} {effect : State → State} {e : ErrCode} {b : Byte}
  {i : Instr} {w : CmdWord}

theorem surround_phase : (surround history later s).phase = s.phase := rfl

theorem raise_surround : raise e (surround history later s) = surround history later (raise e s) := rfl

theorem emit_surround {bytes : List Byte} :
    emit bytes (surround history later s) = surround history later (emit bytes s) := by
  simp [surround, emit]

theorem onlyInIdle_surround (h : effect (surround history later s) = surround history later (effect s)) :
    onlyInIdle effect (surround history later s) = surround history later (onlyInIdle effect s) := by
  rcases onlyInIdle_cases effect s with ⟨hp, he⟩ | ⟨hp, he⟩ | ⟨hp, he⟩ <;> rw [he]
  · exact (onlyInIdle_idle (s := surround history later s) hp).trans h
  · exact onlyInIdle_error hp
  · exact onlyInIdle_operation hp

theorem illegalWord_surround : illegalWord (surround history later s) = surround history later (illegalWord s) := by
  cases hp : s.phase <;> simp [illegalWord, surround_phase, hp, raise_surround]

/-! PUT's branches test only registers, and each branch at most appends to `OUT`. -/

theorem putSLen_surround : putSLen b (surround history later s) = surround history later (putSLen b s) := by
  by_cases hpos : s.pos = 3#2 <;> simp [putSLen, surround, emit, hpos]

theorem putDLen_surround : putDLen b (surround history later s) = surround history later (putDLen b s) := by
  by_cases hpos : s.pos = 3#2 <;> simp [putDLen, surround, hpos]

theorem putSType_surround : putSType b (surround history later s) = surround history later (putSType b s) := by
  by_cases hb : isLetter b = true <;> by_cases hpos : s.pos = 3#2 <;> by_cases hcnt : s.cnt = 0#32 <;>
    simp [putSType, surround, emit, completeSer, raise, hb, hpos, hcnt]

theorem putDType_surround : putDType b (surround history later s) = surround history later (putDType b s) := by
  by_cases hb : isLetter b = true <;> by_cases hpos : s.pos = 3#2 <;> by_cases hcnt : s.cnt = 0#32 <;>
    simp [putDType, surround, raise, hb, hpos, hcnt]

theorem putSData_surround : putSData b (surround history later s) = surround history later (putSData b s) := by
  by_cases hcnt : s.cnt - 1#32 = 0#32 <;> simp [putSData, surround, emit, completeSer, hcnt]

theorem putDData_surround : putDData b (surround history later s) = surround history later (putDData b s) := by
  by_cases hcnt : s.cnt - 1#32 = 0#32 <;> simp [putDData, surround, emit, hcnt]

theorem putDCrc_surround : putDCrc b (surround history later s) = surround history later (putDCrc b s) := by
  by_cases hpos : s.pos = 3#2 <;> by_cases heq : shiftIn s.stored b = fin s.acc <;>
    simp [putDCrc, surround, raise, hpos, heq]

theorem exec_put_surround (h : exec (.put b) s = .next t) :
    exec (.put b) (surround history later s) = .next (surround history later t) := by
  cases h
  cases hp : s.phase <;>
    simp only [exec, execPut, surround_phase, hp, raise_surround, putSLen_surround, putSType_surround,
      putSData_surround, putDLen_surround, putDType_surround, putDData_surround, putDCrc_surround]

theorem exec_end_surround (h : exec .endInput s = .next t) :
    exec .endInput (surround history later s) = .next (surround history later t) := by
  cases h
  cases hp : s.phase <;> simp only [exec, execEnd, surround_phase, hp, raise_surround]

/-- No command looks at its surroundings or changes them. -/
theorem exec_surround (h : exec i s = .next t) :
    exec i (surround history later s) = .next (surround history later t) := by
  cases i with
  | put b => exact exec_put_surround h
  | endInput => exact exec_end_surround h
  | nop | clr => cases h; rfl
  | crci | crcb b | ser | des =>
    cases h
    exact congrArg Host.Outcome.next (onlyInIdle_surround (by rfl))
  | crcr =>
    cases h
    exact congrArg Host.Outcome.next (onlyInIdle_surround emit_surround)

theorem execWord_surround (h : execWord w s = .next t) :
    execWord w (surround history later s) = .next (surround history later t) := by
  cases hd : decode w with
  | error k =>
    rw [execWord_of_decode_error hd] at h ⊢
    cases h
    rw [illegalWord_surround]
  | ok i =>
    rw [execWord_of_decode_ok hd] at h ⊢
    exact exec_surround h

end Surround

theorem exec_total (i : Instr) (s : State) : ∃ t, exec i s = .next t := by
  cases i <;> exact ⟨_, rfl⟩

theorem execWord_total (w : CmdWord) (s : State) : ∃ t, execWord w s = .next t := by
  cases hd : decode w with
  | error k => exact ⟨_, execWord_of_decode_error hd s⟩
  | ok i => rw [execWord_of_decode_ok hd]; exact exec_total i s

/-- Settles O14: run the event with nothing emitted before and nothing to come; any other surroundings stay around the
result. -/
theorem stepDependsOnStateAndCurrentEventOnly : Obligations.StepDependsOnStateAndCurrentEventOnly := by
  intro s ev
  cases ev with
  | reset ws =>
    refine ⟨resetRegs s, [], fun history later => ?_⟩
    rw [step_reset rfl, List.append_nil]
    rfl
  | command w =>
    obtain ⟨t, ht⟩ := execWord_total w { s with out := [] }
    refine ⟨t, t.out, fun history later => ?_⟩
    calc step { s with out := history, host := .command w :: later }
      _ = execWord w { s with out := history, host := later } := step_command rfl
      _ = execWord w (surround history later { s with out := [] }) := by rw [surround, List.append_nil]
      _ = .next (surround history later t) := execWord_surround ht

/-! ### The growth of `OUT` -/

/-- A PUT inside an operation emits nothing, its byte, or, where it completes a serialization, its byte and the
checksum. -/
theorem PutEffect.emits {b : Byte} {s t : State} (h : PutEffect b s t) :
    ∃ e, t.out = s.out ++ e ∧
      (e = [] ∨ e = [b] ∨ (t.done = true ∧ (s.phase = .sType ∨ s.phase = .sData) ∧ e = b :: be32 t.stored)) := by
  cases h
  case serLength | serLengthFull | serType | serTypeFull | serData | desData | desDataLast =>
    exact ⟨[b], rfl, .inr (.inl rfl)⟩
  case serTypeLast hp _ _ _ => exact ⟨_, List.append_assoc .., .inr (.inr ⟨rfl, .inl hp, rfl⟩)⟩
  case serDataLast hp _ => exact ⟨_, List.append_assoc .., .inr (.inr ⟨rfl, .inr hp, rfl⟩)⟩
  all_goals exact ⟨[], (List.append_nil _).symm, .inl rfl⟩

/-- A word leaves `OUT` as it is, or is a CRCR that emits the final value, or is a PUT inside an operation. -/
theorem WordEffect.out_cases {d : Except IllegalWord Instr} {s t : State} (h : WordEffect d s t) :
    t.out = s.out ∨ (d = .ok .crcr ∧ t.out = s.out ++ be32 (fin s.acc)) ∨
    ∃ b, d = .ok (.put b) ∧ PutEffect b s t := by
  cases h
  case read _ hd => exact .inr (.inl ⟨hd, rfl⟩)
  case put b hd _ hput => exact .inr (.inr ⟨b, hd, hput⟩)
  all_goals exact .inl rfl

/-- Settles O15: only CRCR and a PUT inside an operation emit. -/
theorem outputIsAppendOnlyInTheStatedSizes : Obligations.OutputIsAppendOnlyInTheStatedSizes := by
  intro w s t h
  rcases (word_effect h).out_cases with hout | ⟨hd, hout⟩ | ⟨b, hd, hput⟩
  · exact ⟨[], by simp [hout], fun _ => .inl rfl, fun _ _ => .inl rfl, fun _ _ => rfl⟩
  · exact ⟨_, hout, fun _ => .inr rfl, by simp [hd], fun _ hcrcr => absurd hd hcrcr⟩
  · obtain ⟨e, hout, hsize⟩ := hput.emits
    refine ⟨e, hout, by simp [hd], fun b' hd' => ?_, fun hnoPut _ => absurd hd (hnoPut b)⟩
    obtain rfl : b = b' := by simpa [hd] using hd'
    exact hsize

/-! ### The layout of a serialized chunk -/

/-- The rows of the layout map of R48. -/
theorem fieldAt_cases (n k : Nat) :
    (k < 4 ∧ fieldAt n k = some .length) ∨ (4 ≤ k ∧ k < 8 ∧ fieldAt n k = some .type) ∨
    (8 ≤ k ∧ k < 8 + n ∧ fieldAt n k = some .data) ∨
    (8 + n ≤ k ∧ k < chunkSize n ∧ fieldAt n k = some .checksum) ∨ (chunkSize n ≤ k ∧ fieldAt n k = none) := by
  unfold fieldAt
  split_ifs with h4 h8 hdata hsize
  · exact .inl ⟨h4, rfl⟩
  · exact .inr (.inl ⟨not_lt.1 h4, h8, rfl⟩)
  · exact .inr (.inr (.inl ⟨not_lt.1 h8, hdata, rfl⟩))
  · exact .inr (.inr (.inr (.inl ⟨not_lt.1 hdata, hsize, rfl⟩)))
  · exact .inr (.inr (.inr (.inr ⟨not_lt.1 hsize, rfl⟩)))

theorem serialize_length {t : List Byte} (ht : t.length = 4) (d : List Byte) :
    (serialize t d).length = chunkSize d.length := by
  simp only [serialize, List.length_append, be32_length, ht, chunkSize, Config.overhead]
  omega

/-- Settles O60: offset by offset, the byte is found in the field of `serialize` that the layout map names. -/
theorem layoutMapOfASerializedChunk : Obligations.LayoutMapOfASerializedChunk := by
  intro t d k ht _
  rcases fieldAt_cases d.length k with
    ⟨hk, hf⟩ | ⟨hk, hk', hf⟩ | ⟨hk, hk', hf⟩ | ⟨hk, -, hf⟩ | ⟨hk, hf⟩ <;> simp only [hf]
  · rw [serialize, List.append_assoc, List.append_assoc, List.getElem?_append_left hk]
  · rw [serialize, List.append_assoc, List.append_assoc, List.getElem?_append_right (by simpa using hk),
      List.getElem?_append_left (by simp; omega), be32_length]
  · rw [serialize, List.append_assoc, List.getElem?_append_right (by simp [ht]; omega),
      List.getElem?_append_left (by simp [ht]; omega), List.length_append, be32_length, ht]
  · rw [serialize, List.getElem?_append_right (by simp [ht]; omega), List.length_append, List.length_append,
      be32_length, ht]
  · exact List.getElem?_eq_none (by rwa [serialize_length ht])

end Sys2Proof.Machine
end

section
/-! PROOFS of the family 30_encoding: decoder and encoder (O4, O7), the match and mask rows (O5), the illegal words (O6,
O11), legality by phase (O16), the pseudo-instructions (O8) and the text of a command (O9). -/

namespace Sys2Proof

/-! ### Decoder and encoder -/

theorem decode_encode (i : Instr) : decode (encode i) = .ok i := by
  cases i <;> simp [encode, decode_toWord]

theorem exists_toWord (w : CmdWord) : ∃ f : C16, f.toWord = w := ⟨C16.ofWord w, toWord_ofWord w⟩

/-- Each branch of the decoder that answers a command fixes the fields to those of the command's word. -/
theorem encode_of_decode {w : CmdWord} {i : Instr} (h : decode w = .ok i) : encode i = w := by
  obtain ⟨f, rfl⟩ := exists_toWord w
  rw [decode_toWord] at h
  obtain ⟨op, b⟩ := f
  split_ifs at h <;> cases h <;> simp_all [encode]

/-- The operand is or-ed into the low byte, as R63 writes the words of CRCB and PUT. -/
theorem toWord_eq_or (op b : Byte) : C16.toWord ⟨op, b⟩ = C16.toWord ⟨op, 0#8⟩ ||| b.setWidth 16 := by
  apply BitVec.eq_of_getLsbD_eq
  intro i hi
  simp only [C16.toWord, BitVec.getLsbD_or, BitVec.getLsbD_append, BitVec.getLsbD_setWidth, hi]
  by_cases h : i < 8
  · simp [h]
  · simp [h, BitVec.getLsbD_of_ge b i (not_lt.1 h)]

/-- Settles O4: on the fields of a word, decoder and encoder go through the same table. -/
theorem decodeInvertsEncode : Obligations.DecodeInvertsEncode :=
  ⟨⟨rfl, rfl, toWord_eq_or 0x02#8, rfl, rfl, rfl, toWord_eq_or 0x06#8, rfl, rfl⟩, decode_encode,
    fun _ _ => encode_of_decode⟩

/-- Settles O7: fourteen closed facts of the decoder, evaluated. -/
theorem wordsOfTheSpecDecode : Obligations.WordsOfTheSpecDecode := by
  unfold Obligations.WordsOfTheSpecDecode
  decide

/-! ### The match and mask rows (R62) -/

theorem encode_and_rowMask (i : Instr) : encode i &&& i.rowMask = i.rowMatch := by
  cases i with
  | nop => exact Laws.EncodedRow.nop.2
  | crci => exact Laws.EncodedRow.crci.2
  | crcb b => exact (Laws.EncodedRow.crcb b).2
  | crcr => exact Laws.EncodedRow.crcr.2
  | ser => exact Laws.EncodedRow.ser.2
  | des => exact Laws.EncodedRow.des.2
  | put b => exact (Laws.EncodedRow.put b).2
  | endInput => exact Laws.EncodedRow.endInput.2
  | clr => exact Laws.EncodedRow.clr.2

/-- The mask of a row with an operand keeps the opcode. -/
theorem toWord_and_opcodeMask (f : C16) : f.toWord &&& 0xFF00#16 = C16.toWord ⟨f.op, 0#8⟩ := by
  calc f.toWord &&& 0xFF00#16
    _ = f.toWord &&& (BitVec.allOnes 8 ++ 0#8) := rfl
    _ = (f.op &&& BitVec.allOnes 8) ++ (f.b &&& 0#8) := BitVec.and_append
    _ = C16.toWord ⟨f.op, 0#8⟩ := by rw [BitVec.and_allOnes, BitVec.and_zero]; rfl

/-- A word with the opcode of another, up to the operand, is the other's opcode with an operand of its own. -/
theorem eq_toWord_of_and_opcodeMask {w : CmdWord} {op : Byte} (h : w &&& 0xFF00#16 = C16.toWord ⟨op, 0#8⟩) :
    w = C16.toWord ⟨op, (C16.ofWord w).b⟩ := by
  have hop : (C16.ofWord w).op = op := by
    rw [← toWord_ofWord w, toWord_and_opcodeMask] at h
    simpa using congrArg (fun w => (C16.ofWord w).op) h
  rw [← hop, toWord_ofWord]

theorem eq_encode_of_fullMask {w : CmdWord} {i : Instr} (hmask : i.rowMask = BitVec.allOnes 16)
    (h : w &&& i.rowMask = i.rowMatch) : w = encode i := by
  rw [← encode_and_rowMask i, hmask, BitVec.and_allOnes, BitVec.and_allOnes] at h
  exact h

/-- The operand of a row with the mask 0xFF00 is read off the word; any other row holds one word. -/
theorem exists_decode_of_row {w : CmdWord} {j : Instr} (h : w &&& j.rowMask = j.rowMatch) :
    ∃ i, decode w = .ok i ∧ i.rowMask = j.rowMask ∧ i.rowMatch = j.rowMatch := by
  cases j with
  | crcb _ =>
    have hw : w = encode (.crcb (C16.ofWord w).b) := eq_toWord_of_and_opcodeMask (op := 0x02#8) h
    exact ⟨_, (congrArg decode hw).trans (decode_encode _), rfl, rfl⟩
  | put _ =>
    have hw : w = encode (.put (C16.ofWord w).b) := eq_toWord_of_and_opcodeMask (op := 0x06#8) h
    exact ⟨_, (congrArg decode hw).trans (decode_encode _), rfl, rfl⟩
  | nop | crci | crcr | ser | des | endInput | clr =>
    exact ⟨_, (congrArg decode (eq_encode_of_fullMask rfl h)).trans (decode_encode _), rfl, rfl⟩

/-- Settles O5: a row's condition says that the word is the encoding of a command of that row, and a word encodes only
one command. -/
theorem decodeFollowsTheMatchMaskRows : Obligations.DecodeFollowsTheMatchMaskRows := by
  refine ⟨fun _ i h => encode_of_decode h ▸ encode_and_rowMask i, fun _ _ => exists_decode_of_row,
    fun w i j hi hj => ?_⟩
  obtain ⟨i', hdi, hmi, hti⟩ := exists_decode_of_row hi
  obtain ⟨j', hdj, hmj, htj⟩ := exists_decode_of_row hj
  obtain rfl : i' = j' := by simpa [hdi] using hdj
  exact ⟨hmi.symm.trans hmj, hti.symm.trans htj⟩

/-! ### Which words are illegal (R64) -/

theorem opcodeKnown_iff (f : C16) : f.opcodeKnown = true ↔
    f.op = 0x00#8 ∨ f.op = 0x01#8 ∨ f.op = 0x02#8 ∨ f.op = 0x03#8 ∨ f.op = 0x04#8 ∨ f.op = 0x05#8 ∨ f.op = 0x06#8 ∨
    f.op = 0x07#8 ∨ f.op = 0x08#8 := by
  rw [C16.opcodeKnown, decide_eq_true_iff]
  bv_omega

/-- The decoder has a branch for each known opcode. -/
theorem decode_eq_reservedOpcode_iff (w : CmdWord) :
    decode w = .error .reservedOpcode ↔ ¬ (C16.ofWord w).opcodeKnown = true := by
  obtain ⟨f, rfl⟩ := exists_toWord w
  rw [decode_toWord, ofWord_toWord]
  split_ifs <;> simp_all [opcodeKnown_iff]

theorem decode_eq_nonzeroOperand_iff (w : CmdWord) :
    decode w = .error .nonzeroOperand ↔
      (C16.ofWord w).opcodeKnown = true ∧ ¬ (C16.ofWord w).operandAllowed = true := by
  obtain ⟨f, rfl⟩ := exists_toWord w
  rw [decode_toWord, ofWord_toWord]
  split_ifs <;> simp_all [C16.operandAllowed]

theorem ofWord_op_toNat (w : CmdWord) : (C16.ofWord w).op.toNat = w.toNat / 256 := by
  rw [C16.ofWord, BitVec.extractLsb'_toNat, Nat.shiftRight_eq_div_pow]
  exact Nat.mod_eq_of_lt (by omega)

theorem ofWord_b_toNat (w : CmdWord) : (C16.ofWord w).b.toNat = w.toNat % 256 := by
  rw [C16.ofWord, BitVec.extractLsb'_toNat, Nat.shiftRight_zero]

theorem opcodeKnown_ofWord_iff (w : CmdWord) : (C16.ofWord w).opcodeKnown = true ↔ w.toNat / 256 ≤ 8 := by
  rw [← ofWord_op_toNat]
  simp [C16.opcodeKnown, BitVec.le_def]

theorem operandAllowed_ofWord_iff (w : CmdWord) :
    (C16.ofWord w).operandAllowed = true ↔ w.toNat / 256 = 2 ∨ w.toNat / 256 = 6 ∨ w.toNat % 256 = 0 := by
  rw [← ofWord_op_toNat, ← ofWord_b_toNat]
  simp [C16.operandAllowed, ← BitVec.toNat_inj, or_assoc]

/-! ### The pseudo-instructions (R67) -/

/-- SERCHUNK sends the big-endian length, the type and the data as one sequence of bytes. -/
theorem expand_serchunk (typ data : List Byte) : (Pseudo.serchunk typ data).expand =
    .ser :: (Machine.be32 (BitVec.ofNat 32 data.length) ++ typ ++ data).map Instr.put := by
  simp [Pseudo.expand, expandPut32, expandPuts, Machine.be32]

/-- Settles O8: each expansion is a PUT or CRCB a byte; a well-formed SERCHUNK has four type bytes. -/
theorem pseudoInstructionsExpandAsListed : Obligations.PseudoInstructionsExpandAsListed := by
  refine ⟨fun _ => rfl, fun _ => rfl, fun _ => rfl, fun _ => rfl, fun typ data hwf => ?_, fun _ => rfl⟩
  have htyp : typ.length = 4 := by
    simp only [Pseudo.wellFormed, Config.typeLen, Bool.and_eq_true, beq_iff_eq] at hwf
    exact hwf.1
  refine ⟨?_, expand_serchunk typ data⟩
  simp only [expand_serchunk, List.length_cons, List.length_map, List.length_append, Machine.be32_length, htyp]
  omega

/-! ### The text of a command (R66) -/

theorem asmHexDigit_hexChar {n : Nat} (h : n < 16) : asmHexDigit (hexChar n) = some n := by
  interval_cases n <;> decide

/-- The text of an operand byte: a space, `0x` and the byte's two hexadecimal digits. -/
theorem asmWithOperand_hex (mk : Byte → Instr) (b : Byte) :
    asmWithOperand mk [' ', '0', 'x', hexChar (b.toNat / 16), hexChar (b.toNat % 16)] = some (mk b) := by
  have hhigh : asmHexDigit (hexChar (b.toNat / 16)) = some (b.toNat / 16) := asmHexDigit_hexChar (by omega)
  have hlow : asmHexDigit (hexChar (b.toNat % 16)) = some (b.toNat % 16) := asmHexDigit_hexChar (by omega)
  have hbyte : BitVec.ofNat 8 (16 * (b.toNat / 16) + b.toNat % 16) = b := by
    rw [Nat.div_add_mod, BitVec.ofNat_toNat, BitVec.setWidth_eq]
  simp [asmWithOperand, asmOperand, hhigh, hlow, hbyte, asmLineEnd]

/-- Settles O9: the line of a command selects the command's own branch of the assembler. -/
theorem assemblerReadsTheCommandText : Obligations.AssemblerReadsTheCommandText := by
  intro i
  cases i with
  | crcb b => exact asmWithOperand_hex .crcb b
  | put b => exact asmWithOperand_hex .put b
  | nop | crci | crcr | ser | des | endInput | clr => decide

end Sys2Proof

namespace Sys2Proof.Machine

/-! ### Illegal words in a step (R64, R156) -/

theorem execWord_illegal_of_error {w : CmdWord} {k : IllegalWord} {s : State} (hd : decode w = .error k)
    (hp : s.phase = .error) : execWord w s = .next s := by
  simp [execWord_of_decode_error hd, illegalWord, hp]

theorem execWord_illegal_of_ne_error {w : CmdWord} {k : IllegalWord} {s : State} (hd : decode w = .error k)
    (hp : s.phase ≠ .error) : execWord w s = .next (raise .illegalCommand s) := by
  rw [execWord_of_decode_error hd]
  rcases illegalWord_cases s with ⟨he, -⟩ | ⟨-, hraise⟩
  · exact absurd he hp
  · rw [hraise]

/-- Settles O6: the decoder's two verdicts are the two checks on the fields, read as numbers. -/
theorem illegalWordsAreReservedAndRaise : Obligations.IllegalWordsAreReservedAndRaise := by
  refine ⟨fun w => ?_, fun w => ?_, fun _ _ _ => execWord_illegal_of_ne_error, fun _ _ _ => execWord_illegal_of_error⟩
  · rw [decode_eq_reservedOpcode_iff, opcodeKnown_ofWord_iff]
    omega
  · rw [decode_eq_nonzeroOperand_iff, opcodeKnown_ofWord_iff, operandAllowed_ofWord_iff]
    omega

/-- Settles O11: the step consumes the word and runs it. -/
theorem stepOnAnIllegalWord : Obligations.StepOnAnIllegalWord := by
  intro s w rest k hhost hd
  rw [step_command hhost]
  exact ⟨fun hp => execWord_illegal_of_ne_error hd hp, fun hp => execWord_illegal_of_error hd hp⟩

/-! ### Legality by phase (R68) -/

/-- What an entry of the table of R68 allows a word with the decoder's verdict `d` to do in taking `s` to `t`. -/
def Verdict.Allows (d : Except IllegalWord Instr) (s t : State) : Verdict → Prop
  | .ign => t = s
  | .ill => t = raise .illegalCommand s
  | .trunc => t = raise .truncated s
  | .ok =>
    (d = .ok .nop ∨ d = .ok .endInput → t = s) ∧
    (t.phase = .error → t.err = .invalidChunkType ∨ t.err = .checksumMismatch)

/-- A PUT inside an operation raises only the errors of a type byte and of the last checksum byte. -/
theorem PutEffect.err_of_error {b : Byte} {s t : State} (h : PutEffect b s t) (he : t.phase = .error) :
    t.err = .invalidChunkType ∨ t.err = .checksumMismatch := by
  cases h
  case badType => exact .inl rfl
  case checksumWrong => exact .inr rfl
  all_goals simp_all

theorem legality_put_of_inOperation {b : Byte} {p : Phase} (h : p.inOperation = true) :
    legality (some (.put b)) p = .ok := by
  cases p <;> simp_all [legality, Phase.inOperation]

/-- The commands that only IDLE carries out share their row of the table. -/
theorem legality_onlyInIdle {i : Instr} (hi : i = .crci ∨ (∃ b, i = .crcb b) ∨ i = .crcr ∨ i = .ser ∨ i = .des) :
    legality (some i) .idle = .ok ∧ legality (some i) .error = .ign ∧
    ∀ p : Phase, p.inOperation = true → legality (some i) p = .ill := by
  rcases hi with rfl | ⟨b, rfl⟩ | rfl | rfl | rfl <;>
    exact ⟨rfl, rfl, fun p hp => by cases p <;> simp_all [legality, Phase.inOperation]⟩

theorem onlyInIdle_allowed {i : Instr} {s : State} {effect : State → State}
    (hi : i = .crci ∨ (∃ b, i = .crcb b) ∨ i = .crcr ∨ i = .ser ∨ i = .des)
    (heffect : s.phase = .idle → (effect s).phase ≠ .error) :
    (legality (some i) s.phase).Allows (.ok i) s (onlyInIdle effect s) := by
  obtain ⟨hidle, herror, hoperation⟩ := legality_onlyInIdle hi
  rcases onlyInIdle_cases effect s with ⟨hp, he⟩ | ⟨hp, he⟩ | ⟨ho, he⟩ <;> rw [he]
  · rw [hp, hidle]
    exact ⟨by rcases hi with rfl | ⟨b, rfl⟩ | rfl | rfl | rfl <;> simp, fun h => absurd h (heffect hp)⟩
  · rw [hp, herror]
    rfl
  · rw [hoperation _ ho]
    rfl

theorem exec_allowed {i : Instr} {s t : State} (h : exec i s = .next t) :
    (legality (some i) s.phase).Allows (.ok i) s t := by
  cases i with
  | clr => cases h; simp [legality, Verdict.Allows]
  | nop => cases h; cases hp : s.phase <;> simp [legality, Verdict.Allows, hp]
  | endInput => cases h; cases hp : s.phase <;> simp [legality, Verdict.Allows, hp]
  | put b =>
    cases hp : s.phase
    case idle | error => simp only [exec, execPut, hp, Host.Outcome.next.injEq] at h; exact h.symm
    all_goals
      have ho : s.phase.inOperation = true := by rw [hp]; rfl
      rw [← hp, legality_put_of_inOperation ho]
      exact ⟨by simp, (put_effect ho h).err_of_error⟩
  | crci | crcb | crcr | ser | des => cases h; exact onlyInIdle_allowed (by simp) (by simp +contextual)

theorem execWord_allowed {w : CmdWord} {s t : State} (h : execWord w s = .next t) :
    (legality (decode w).toOption s.phase).Allows (decode w) s t := by
  cases hd : decode w with
  | error k =>
    rw [execWord_of_decode_error hd] at h
    cases h
    cases hp : s.phase <;> simp [Except.toOption, legality, Verdict.Allows, illegalWord, hp]
  | ok i =>
    rw [execWord_of_decode_ok hd] at h
    exact exec_allowed h

/-- Settles O16: command by command, the table's entry allows what the word does. -/
theorem legalityByPhaseDecidesEveryWord : Obligations.LegalityByPhaseDecidesEveryWord := by
  intro w s t h
  have hallowed := execWord_allowed h
  cases hv : legality (decode w).toOption s.phase <;> rw [hv] at hallowed <;> exact hallowed

end Sys2Proof.Machine
end

section
/-! PROOFS of the family 40_chunk_type: a complete type code stays (O58), the four property wires (O2) and the letters
(O51). -/

namespace Sys2Proof.Machine

/-! ### A complete type code (R86) -/

/-- A PUT shifts into `typ` only in a type phase, and there the type code is not yet complete. -/
theorem PutEffect.completeType_kept {b : Byte} {s t : State} (h : PutEffect b s t) (hf : TfullTracks s)
    (hs : s.tfull = true) : t.tfull = true ∧ t.typ = s.typ := by
  obtain ⟨-, hopen⟩ := hf
  have hnotType : ¬ (s.phase = .sType ∨ s.phase = .dType) := fun hp => by simp [hopen (.inr (.inr hp))] at hs
  cases h
  case badType hp _ => exact absurd hp hnotType
  case serType hp _ _ | serTypeFull hp _ _ _ | serTypeLast hp _ _ _ => exact absurd (.inl hp) hnotType
  case desType hp _ _ | desTypeFull hp _ _ _ | desTypeLast hp _ _ _ => exact absurd (.inr hp) hnotType
  all_goals exact ⟨hs, rfl⟩

/-- SER, DES and CLR preset the type code; a PUT keeps it once complete; no other word writes it. -/
theorem WordEffect.completeType_kept {d : Except IllegalWord Instr} {s t : State} (h : WordEffect d s t)
    (hf : TfullTracks s) (hs : s.tfull = true) (hser : d ≠ .ok .ser) (hdes : d ≠ .ok .des) (hclr : d ≠ .ok .clr) :
    t.tfull = true ∧ t.typ = s.typ := by
  cases h
  case startSer _ hd => exact absurd hd hser
  case startDes _ hd => exact absurd hd hdes
  case clear hd => exact absurd hd hclr
  case put _ _ _ hput => exact hput.completeType_kept hf hs
  all_goals exact ⟨hs, rfl⟩

/-- Settles O58: of the control invariant it needs clause 5, that `tfull` is 0 in the type phases. -/
theorem completeTypeIsImmutable : Obligations.CompleteTypeIsImmutable :=
  fun _ _ _ ⟨_, _, _, hf, _⟩ h hs => (word_effect h).completeType_kept hf hs

/-! ### The property wires (R82 to R85) -/

/-- 0x20 is the mask of bit 5. -/
theorem and_0x20_eq_zero_iff (b : Byte) : b &&& 0x20#8 = 0#8 ↔ b.getLsbD 5 = false := by
  rw [show 0x20#8 = BitVec.twoPow 8 5 from rfl, BitVec.and_twoPow]
  cases b.getLsbD 5 <;> decide

theorem and_0x20_eq_self_iff (b : Byte) : b &&& 0x20#8 = 0x20#8 ↔ b.getLsbD 5 = true := by
  rw [show 0x20#8 = BitVec.twoPow 8 5 from rfl, BitVec.and_twoPow]
  cases b.getLsbD 5 <;> decide

/-- The bits of a big-endian word are those of its bytes, the first byte on top (R8). -/
theorem getLsbD_fromBe32 (b0 b1 b2 b3 : Byte) (i : Nat) : (fromBe32 b0 b1 b2 b3).getLsbD i =
    if i < 8 then b3.getLsbD i else if i < 16 then b2.getLsbD (i - 8)
    else if i < 24 then b1.getLsbD (i - 16) else b0.getLsbD (i - 24) := by
  have h16 : i - 8 < 8 ↔ i < 16 := by omega
  have h24 : i - 16 < 8 ↔ i < 24 := by omega
  simp only [fromBe32, BitVec.getLsbD_append]
  simp only [Nat.sub_sub, Nat.reduceAdd, h16, h24]

/-- Settles O2: the four bits the wires read are bit 5 of the four bytes. -/
theorem propertyWiresAreBitFiveGatedByTfull : Obligations.PropertyWiresAreBitFiveGatedByTfull := by
  intro s b0 b1 b2 b3 htyp
  have hcritical : isCritical s.typ = !b0.getLsbD 5 := by rw [htyp, isCritical, getLsbD_fromBe32]; rfl
  have hpublic : isPublic s.typ = !b1.getLsbD 5 := by rw [htyp, isPublic, getLsbD_fromBe32]; rfl
  have hvalid : isValid s.typ = !b2.getLsbD 5 := by rw [htyp, isValid, getLsbD_fromBe32]; rfl
  have hsafe : isSafeToCopy s.typ = b3.getLsbD 5 := by rw [htyp, isSafeToCopy, getLsbD_fromBe32]; rfl
  simp only [State.fCritical, State.fPublic, State.fValid, State.fSafe, hcritical, hpublic, hvalid, hsafe,
    and_0x20_eq_zero_iff, and_0x20_eq_self_iff, Bool.and_eq_true, Bool.not_eq_true', and_self]

/-! ### The letters (R80) -/

theorem isLetter_iff (b : Byte) : isLetter b = true ↔
    (0x41 ≤ b.toNat ∧ b.toNat ≤ 0x5A) ∨ (0x61 ≤ b.toNat ∧ b.toNat ≤ 0x7A) := by
  simp [isLetter, BitVec.le_def]

/-- Settles O51: the bounds are those of the definition; the 256 byte values are counted. -/
theorem isLetterAcceptsTheAsciiLetters : Obligations.IsLetterAcceptsTheAsciiLetters :=
  ⟨isLetter_iff, by decide⟩

end Sys2Proof.Machine
end

section
/-! PROOFS of the family 41_crc32: the bit step (O46), the table and its ROM (O47, O48), the raw CRC commands (O22 to
O24), feeding on after a read (O49) and the change of one byte (O50). -/

namespace Sys2Proof.Machine

/-! ### The raw CRC commands (R100 to R102) -/

/-! A command that only IDLE carries out, phase by phase (R156). -/

section OnlyInIdle
variable {i : Instr} {effect : State → State} {s : State}

theorem exec_of_idle (h : exec i s = .next (onlyInIdle effect s)) (hp : s.phase = .idle) :
    exec i s = .next (effect s) := by
  rw [h, onlyInIdle_idle hp]

theorem exec_of_error (h : exec i s = .next (onlyInIdle effect s)) (hp : s.phase = .error) : exec i s = .next s := by
  rw [h, onlyInIdle_error hp]

theorem exec_of_operation (h : exec i s = .next (onlyInIdle effect s)) (hidle : s.phase ≠ .idle)
    (herror : s.phase ≠ .error) : exec i s = .next (raise .illegalCommand s) := by
  rw [h, onlyInIdle_operation ((inOperation_iff _).2 ⟨hidle, herror⟩)]

end OnlyInIdle

theorem exec_crci (s : State) : exec .crci s = .next (onlyInIdle (fun s => { s with acc := Config.init }) s) := rfl

theorem exec_crcb (b : Byte) (s : State) :
    exec (.crcb b) s = .next (onlyInIdle (fun s => { s with acc := upd s.acc b }) s) := rfl

theorem exec_crcr (s : State) : exec .crcr s = .next (onlyInIdle (fun s => emit (be32 (fin s.acc)) s) s) := rfl

/-- Settles O22: the preset where `onlyInIdle` carries it out. -/
theorem crciPresetsAcc : Obligations.CrciPresetsAcc :=
  ⟨decode_encode .crci, fun s => exec_of_idle (exec_crci s), fun s => exec_of_error (exec_crci s),
    fun s => exec_of_operation (exec_crci s)⟩

/-- Settles O23: the byte update where `onlyInIdle` carries it out. -/
theorem crcbFeedsOneByte : Obligations.CrcbFeedsOneByte :=
  ⟨fun b => decode_encode (.crcb b), fun b s => exec_of_idle (exec_crcb b s), fun b s => exec_of_error (exec_crcb b s),
    fun b s => exec_of_operation (exec_crcb b s)⟩

/-- Settles O24: the four bytes emitted are those the final value is assembled from. -/
theorem crcrEmitsTheFinalValue : Obligations.CrcrEmitsTheFinalValue := by
  refine ⟨decode_encode .crcr, fun s b0 b1 b2 b3 hp hbytes => ?_, fun s => exec_of_error (exec_crcr s),
    fun s => exec_of_operation (exec_crcr s)⟩
  have hfin : fin s.acc = fromBe32 b0 b1 b2 b3 := hbytes
  rw [exec_of_idle (exec_crcr s) hp, hfin, be32_fromBe32]
  rfl

/-! ### The bit step (R91) -/

theorem bitstep_of_even {c : Word} (h : c.getLsbD 0 = false) : bitstep c = c >>> 1 :=
  if_neg (by rw [h]; decide)

theorem bitstep_of_odd {c : Word} (h : c.getLsbD 0 = true) : bitstep c = (c >>> 1) ^^^ Config.poly :=
  if_pos h

/-- Linear over XOR: the polynomial is added once for each odd operand, and twice is not at all. -/
theorem bitstep_xor (c d : Word) : bitstep (c ^^^ d) = bitstep c ^^^ bitstep d := by
  have hlow : (c ^^^ d).getLsbD 0 = (c.getLsbD 0 ^^ d.getLsbD 0) := BitVec.getLsbD_xor
  have hshift : (c ^^^ d) >>> 1 = (c >>> 1) ^^^ (d >>> 1) := BitVec.ushiftRight_xor_distrib ..
  cases hc : c.getLsbD 0 <;> cases hd : d.getLsbD 0 <;> rw [hc, hd] at hlow
  · rw [bitstep_of_even hlow, bitstep_of_even hc, bitstep_of_even hd, hshift]
  · rw [bitstep_of_odd hlow, bitstep_of_even hc, bitstep_of_odd hd, hshift, BitVec.xor_assoc]
  · rw [bitstep_of_odd hlow, bitstep_of_odd hc, bitstep_of_even hd, hshift]
    ac_rfl
  · rw [bitstep_of_even hlow, bitstep_of_odd hc, bitstep_of_odd hd, hshift]
    calc (c >>> 1) ^^^ (d >>> 1)
      _ = (c >>> 1) ^^^ (d >>> 1) ^^^ (Config.poly ^^^ Config.poly) := by rw [BitVec.xor_self, BitVec.xor_zero]
      _ = (c >>> 1) ^^^ Config.poly ^^^ ((d >>> 1) ^^^ Config.poly) := by ac_rfl

/-- The shift brings 0 in at the top, and bit 31 of the polynomial is 1. -/
theorem bitstep_msb (c : Word) : (bitstep c).getLsbD 31 = c.getLsbD 0 := by
  have hshift : (c >>> 1).getLsbD 31 = false := by simp
  cases hc : c.getLsbD 0
  · rw [bitstep_of_even hc, hshift]
  · rw [bitstep_of_odd hc, BitVec.getLsbD_xor, hshift]
    rfl

/-- Only 0 steps to 0: bit 31 of the step shows bit 0, and the shift keeps the others. -/
theorem eq_zero_of_bitstep_eq_zero {c : Word} (h : bitstep c = 0#32) : c = 0#32 := by
  have hlow : c.getLsbD 0 = false := by rw [← bitstep_msb, h]; rfl
  have hshift : c >>> 1 = 0#32 := by rw [← bitstep_of_even hlow, h]
  apply BitVec.eq_of_getLsbD_eq
  intro i _
  cases i with
  | zero => simpa using hlow
  | succ i =>
    calc c.getLsbD (i + 1)
      _ = (c >>> 1).getLsbD i := by rw [BitVec.getLsbD_ushiftRight, Nat.add_comm]
      _ = (0#32).getLsbD (i + 1) := by rw [hshift]; simp

theorem bitstep_injective : Function.Injective bitstep := by
  intro c d h
  have hzero : bitstep (c ^^^ d) = 0#32 := by rw [bitstep_xor, h, BitVec.xor_self]
  exact BitVec.xor_eq_zero_iff.1 (eq_zero_of_bitstep_eq_zero hzero)

/-- Settles O46: linearity makes injectivity a matter of the kernel, and the words are finitely many. -/
theorem bitstepIsALinearBijection : Obligations.BitstepIsALinearBijection := by
  have hfinite : Finite Word := Finite.of_injective BitVec.toFin fun _ _ => BitVec.eq_of_toFin_eq
  exact ⟨fun _ => rfl, bitstep_xor, rfl, bitstep_msb, bitstep_injective.bijective_of_finite⟩

/-! ### Several bit steps, and the byte update (R92) -/

theorem bitsteps_xor (n : Nat) (c d : Word) : bitsteps n (c ^^^ d) = bitsteps n c ^^^ bitsteps n d := by
  induction n generalizing c d with
  | zero => rfl
  | succ n ih => rw [bitsteps, bitstep_xor, ih]; rfl

theorem bitsteps_injective (n : Nat) : Function.Injective (bitsteps n) := by
  induction n with
  | zero => exact Function.injective_id
  | succ n ih => exact ih.comp bitstep_injective

/-- Bit steps over bits that are 0 only shift. -/
theorem bitsteps_of_low_zero {n : Nat} {c : Word} (h : ∀ i < n, c.getLsbD i = false) : bitsteps n c = c >>> n := by
  induction n generalizing c with
  | zero => simp [bitsteps]
  | succ n ih =>
    have hnext : ∀ i < n, (c >>> 1).getLsbD i = false := fun i hi => by
      rw [BitVec.getLsbD_ushiftRight]
      exact h _ (by omega)
    rw [bitsteps, bitstep_of_even (h 0 (by omega)), ih hnext, Nat.add_comm, BitVec.shiftRight_add]

theorem upd_injective_left (b : Byte) : Function.Injective (upd · b) :=
  (bitsteps_injective 8).comp fun _ _ h => (BitVec.xor_left_inj _).1 h

theorem zext32_injective : Function.Injective zext32 := fun x y h => by
  simpa [zext32, BitVec.setWidth_setWidth_of_le] using congrArg (BitVec.setWidth 8) h

theorem upd_injective_right (a : Word) : Function.Injective (upd a) :=
  (bitsteps_injective 8).comp fun _ _ h => zext32_injective ((BitVec.xor_right_inj _).1 h)

/-! ### One changed byte (R103) -/

theorem updAll_injective_left (bytes : List Byte) : Function.Injective (updAll · bytes) := by
  induction bytes with
  | nil => exact Function.injective_id
  | cons b bs ih => exact ih.comp (upd_injective_left b)

/-- Settles O50: the changed byte changes the register, and the bytes after it keep it changed. -/
theorem oneChangedByteChangesTheCrc : Obligations.OneChangedByteChangesTheCrc := by
  intro before after x y hne h
  have hall : updAll Config.init (before ++ x :: after) = updAll Config.init (before ++ y :: after) := fin_injective h
  rw [updAll_append, updAll_append, updAll_cons, updAll_cons] at hall
  exact hne (upd_injective_right _ (updAll_injective_left after hall))

/-! ### The table and its ROM (R96, R97) -/

/-- Sixteen entries of the table from the index `start` on, each eight bit steps of its index. -/
def entriesFrom (start : Nat) : List Word :=
  (List.range' start 16).map fun n => tableEntry (BitVec.ofNat 8 n)

/-- The printed table against the bit step, evaluated sixteen entries at a time. -/
theorem crcRom_entriesFrom : ∀ k : Fin 16, (crcRom.drop (16 * k.val)).take 16 = entriesFrom (16 * k.val) := by decide

theorem crcRom_length : crcRom.length = 256 := by
  rw [crcRom]
  simp only [List.length_append]
  rfl

theorem crcRom_getElem? {n : Nat} (h : n < 256) : crcRom[n]? = some (tableEntry (BitVec.ofNat 8 n)) := by
  have hrow := crcRom_entriesFrom ⟨n / 16, by omega⟩
  have hlt : n % 16 < 16 := Nat.mod_lt n (by decide)
  calc crcRom[n]?
    _ = ((crcRom.drop (16 * (n / 16))).take 16)[n % 16]? := by
      rw [List.getElem?_take_of_lt hlt, List.getElem?_drop, Nat.div_add_mod]
    _ = (entriesFrom (16 * (n / 16)))[n % 16]? := by rw [hrow]
    _ = some (tableEntry (BitVec.ofNat 8 n)) := by simp [entriesFrom, hlt, Nat.div_add_mod]

theorem romRead_entry {n : Nat} (h : n < 256) : romRead (4 * n) 4 = some (tableEntry (BitVec.ofNat 8 n)) := by
  have haddr : 4 * n / 4 = n := by omega
  rw [romRead, if_pos ⟨rfl, by omega⟩, haddr, crcRom_getElem? h]

theorem romRead_bounds {addr n : Nat} (h : romRead addr n ≠ none) : n = 4 ∧ addr % 4 = 0 ∧ addr / 4 ≤ 255 := by
  unfold romRead at h
  split at h
  next haddr =>
    obtain ⟨hwidth, hmultiple⟩ := haddr
    refine ⟨hwidth, hmultiple, ?_⟩
    have hlt : addr / 4 < crcRom.length := by simpa using h
    rw [crcRom_length] at hlt
    omega
  next => exact absurd rfl h

/-- Settles O47: the entry at a multiple of 4 is the table's, and the bounds are those of the list. -/
theorem romHoldsTheTableOfTheBitStep : Obligations.RomHoldsTheTableOfTheBitStep := by
  refine ⟨fun n => ?_, fun _ _ => romRead_bounds⟩
  have hzext : zext32 (BitVec.ofNat 8 n.val) = BitVec.ofNat 32 n.val := by
    apply BitVec.eq_of_toNat_eq
    simp only [zext32, BitVec.toNat_setWidth, BitVec.toNat_ofNat]
    omega
  rw [romRead_entry n.isLt, tableEntry, hzext]
  rfl

/-- A word is its low byte and the rest of it. -/
theorem eq_lowByte_xor_rest (c : Word) : c = zext32 (c.extractLsb' 0 8) ^^^ ((c >>> 8) <<< 8) := by
  apply BitVec.eq_of_getLsbD_eq
  intro i hi
  rw [zext32, BitVec.getLsbD_xor, BitVec.getLsbD_setWidth, BitVec.getLsbD_extractLsb', BitVec.getLsbD_shiftLeft,
    BitVec.getLsbD_ushiftRight]
  by_cases h : i < 8
  · simp [h, hi]
  · simp [h, hi, show 8 + (i - 8) = i by omega]

/-- Eight bit steps look the low byte up in the table and shift the rest down. -/
theorem bitsteps_eight (c : Word) : bitsteps 8 c = tableEntry (c.extractLsb' 0 8) ^^^ (c >>> 8) := by
  have hrest : bitsteps 8 ((c >>> 8) <<< 8) = c >>> 8 := by
    rw [bitsteps_of_low_zero (by simp +contextual)]
    apply BitVec.eq_of_toNat_eq
    simp only [BitVec.toNat_ushiftRight, BitVec.toNat_shiftLeft, Nat.shiftRight_eq_div_pow, Nat.shiftLeft_eq]
    omega
  conv_lhs => rw [eq_lowByte_xor_rest c]
  rw [bitsteps_xor, hrest, tableEntry]

/-- The operand byte does not reach the bits that are shifted down. -/
theorem xor_zext32_shiftRight_eight (a : Word) (b : Byte) : (a ^^^ zext32 b) >>> 8 = a >>> 8 := by
  have hb : zext32 b >>> 8 = 0#32 := by
    apply BitVec.eq_of_toNat_eq
    rw [zext32, BitVec.toNat_ushiftRight, BitVec.toNat_setWidth, Nat.shiftRight_eq_div_pow]
    exact Nat.div_eq_of_lt (by omega)
  rw [BitVec.ushiftRight_xor_distrib, hb, BitVec.xor_zero]

theorem upd_eq_updTable (a : Word) (b : Byte) : upd a b = updTable a b := by
  rw [upd, bitsteps_eight, xor_zext32_shiftRight_eight, updTable]

/-- Settles O48: the table form adds the shifted register to the entry, so adding it again leaves the entry. -/
theorem tableFormEqualsBitSerialUpdate : Obligations.TableFormEqualsBitSerialUpdate := by
  intro a b
  refine ⟨?_, upd_eq_updTable a b⟩
  rw [romRead_entry (BitVec.isLt _), BitVec.ofNat_toNat, BitVec.setWidth_eq, upd_eq_updTable, updTable,
    BitVec.xor_assoc, BitVec.xor_self, BitVec.xor_zero]
  rfl

/-! ### Feeding on after a read (R99) -/

theorem run_succ_of_step (M : Host.Core) {k : Nat} {s t : M.State} (h : M.step s = .next t) :
    M.run (k + 1) s = M.run k t := by
  rw [Host.Core.run, h]

/-- In IDLE the run's first step carries out the effect of a command that needs IDLE. -/
theorem run_onlyInIdle {k : Nat} {s : State} {i : Instr} {effect : State → State} {rest : List HostEvent}
    (hp : s.phase = .idle) (hhost : s.host = .command (encode i) :: rest)
    (h : ∀ s, exec i s = .next (onlyInIdle effect s)) :
    Host.Core.run core (k + 1) s = Host.Core.run core k (effect { s with host := rest }) := by
  refine run_succ_of_step core ?_
  calc step s
    _ = execWord (encode i) { s with host := rest } := step_command hhost
    _ = exec i { s with host := rest } := execWord_of_decode_ok (decode_encode i) _
    _ = .next (effect { s with host := rest }) := exec_of_idle (h _) hp

/-- The CRCBs of CRCS feed the bytes in their order (R67, R101). -/
theorem run_crcs {k : Nat} {s : State} {bytes : List Byte} {rest : List HostEvent} (hp : s.phase = .idle)
    (hhost : s.host = presented (Pseudo.crcs bytes).expand ++ rest) :
    Host.Core.run core (bytes.length + k) s =
      Host.Core.run core k { s with acc := updAll s.acc bytes, host := rest } := by
  induction bytes generalizing s with
  | nil =>
    have hs : { s with host := rest } = s := by rw [← show s.host = rest from hhost]
    rw [updAll_nil, hs, List.length_nil, Nat.zero_add]
  | cons b bs ih =>
    rw [List.length_cons, Nat.add_right_comm]
    exact (run_onlyInIdle hp hhost (exec_crcb b)).trans (ih hp rfl)

/-- A sequence is fed and the register is read: CRCR emits the final value and leaves `acc` (R102). -/
theorem run_crcs_crcr {k : Nat} {s : State} {bytes : List Byte} {rest : List HostEvent} (hp : s.phase = .idle)
    (hhost : s.host = presented (Pseudo.crcs bytes).expand ++ .command (encode .crcr) :: rest) :
    Host.Core.run core (bytes.length + (k + 1)) s =
      Host.Core.run core k
        { s with
          acc := updAll s.acc bytes, out := s.out ++ be32 (fin (updAll s.acc bytes)), host := rest } :=
  (run_crcs hp hhost).trans (run_onlyInIdle (by exact hp) rfl exec_crcr)

theorem presented_append (is js : List Instr) : presented (is ++ js) = presented is ++ presented js := List.map_append

theorem presented_singleton (i : Instr) : presented [i] = [.command (encode i)] := rfl

/-- Settles O49: CRCR leaves `acc`, so the second sequence continues the register of the first. -/
theorem crcContinuesAfterRead : Obligations.CrcContinuesAfterRead := by
  intro s first second rest hp hhost
  have hsteps : 3 + first.length + second.length = first.length + (second.length + (0 + 1) + 1) + 1 := by omega
  have hacc : fin (updAll Config.init (first ++ second)) ^^^ 0xFFFFFFFF#32 = updAll Config.init (first ++ second) :=
    fin_fin _
  simp only [presented_append, presented_singleton, List.append_assoc, List.singleton_append] at hhost
  rw [hsteps, crc32, crc32, hacc, updAll_append]
  refine (run_onlyInIdle hp hhost exec_crci).trans ?_
  refine (run_crcs_crcr (by exact hp) rfl).trans ?_
  exact run_crcs_crcr (k := 0) (by exact hp) rfl

end Sys2Proof.Machine
end

section
/-! PROOFS of the family 42_serializer: `serialize` (O29), SER (O25), PUT in the serializer's phases (O26 to O28) and the
run of a whole SERCHUNK (O30). -/

namespace Sys2Proof.Machine

/-! ### `serialize` (R110) -/

/-- Field by field from the right: the total size gives the size of the data, and the other fields have fixed sizes. -/
theorem serialize_injective {t d t' d' : List Byte} (ht : t.length = 4) (ht' : t'.length = 4)
    (h : serialize t d = serialize t' d') : t = t' ∧ d = d' := by
  have hsize : chunkSize d.length = chunkSize d'.length := by rw [← serialize_length ht, h, serialize_length ht']
  have hd : d.length = d'.length := Nat.add_left_cancel hsize
  obtain ⟨hfront, -⟩ := List.append_inj' h rfl
  obtain ⟨hlengthType, hdata⟩ := List.append_inj' hfront hd
  exact ⟨List.append_inj_right hlengthType rfl, hdata⟩

/-- Settles O29: the layout is the definition's; injectivity needs no bound on the data, as the size shows it. -/
theorem serializeHasTheLayoutAndIsInjective : Obligations.SerializeHasTheLayoutAndIsInjective :=
  ⟨fun _ _ => rfl, fun _ d ht => serialize_length ht d, fun _ _ _ _ ht ht' _ _ => serialize_injective ht ht'⟩

/-! ### SER and PUT, one step (R111 to R115) -/

theorem exec_ser (s : State) : exec .ser s = .next (onlyInIdle (startOperation .sLen) s) := rfl

/-- Settles O25: the presets where `onlyInIdle` carries them out. -/
theorem serStartsSerializing : Obligations.SerStartsSerializing :=
  ⟨decode_encode .ser, fun s => exec_of_idle (exec_ser s), fun s => exec_of_error (exec_ser s),
    fun s => exec_of_operation (exec_ser s)⟩

section Put
variable {b : Byte} {s : State}

theorem exec_put_sLen (hp : s.phase = .sLen) : exec (.put b) s = .next (putSLen b s) := by
  simp [exec, execPut, hp]

theorem exec_put_sType (hp : s.phase = .sType) : exec (.put b) s = .next (putSType b s) := by
  simp [exec, execPut, hp]

theorem exec_put_sData (hp : s.phase = .sData) : exec (.put b) s = .next (putSData b s) := by
  simp [exec, execPut, hp]

end Put

/-- Settles O26: the two branches of `putSLen`. -/
theorem putInSLenTakesALengthByte : Obligations.PutInSLenTakesALengthByte := by
  intro b s hp
  rw [exec_put_sLen hp]
  rcases putSLen_cases b s with ⟨hpos, he⟩ | ⟨hpos, he⟩ <;> rw [he]
  · exact ⟨fun _ => rfl, fun hne => absurd hpos hne⟩
  · exact ⟨fun h3 => absurd h3 hpos, fun _ => rfl⟩

/-- Settles O27: the four branches of `putSType`. -/
theorem putInSTypeTakesATypeByte : Obligations.PutInSTypeTakesATypeByte := by
  intro b s hp
  rw [exec_put_sType hp]
  rcases putSType_cases b s with ⟨hb, he⟩ | ⟨hb, hpos, he⟩ | ⟨hb, hpos, hcnt, he⟩ | ⟨hb, hpos, hcnt, he⟩ <;> rw [he]
  · simp [hb, raise, hp, shiftIn, zext32]
  · simp [hb, hpos, shiftIn, zext32]
  · simp [hb, hpos, hcnt, shiftIn, zext32]
  · simp [hb, hpos, hcnt, completeSer, fin, Config.xorOut, shiftIn, zext32]

/-- Settles O28: the two branches of `putSData`. -/
theorem putInSDataTakesADataByte : Obligations.PutInSDataTakesADataByte := by
  intro b s hp _
  rw [exec_put_sData hp]
  rcases putSData_cases b s with ⟨hcnt, he⟩ | ⟨hcnt, he⟩ <;> rw [he]
  · exact ⟨fun _ => rfl, fun h1 => absurd h1 hcnt⟩
  · exact ⟨fun hne => absurd hcnt hne, fun _ => rfl⟩

/-! ### A whole SERCHUNK (R116) -/

/-- The run's first step carries out the command whose word is presented next. -/
theorem run_command {k : Nat} {s t : State} {i : Instr} {rest : List HostEvent}
    (hhost : s.host = .command (encode i) :: rest) (h : exec i { s with host := rest } = .next t) :
    Host.Core.run core (k + 1) s = Host.Core.run core k t := by
  refine run_succ_of_step core ?_
  calc step s
    _ = execWord (encode i) { s with host := rest } := step_command hhost
    _ = exec i { s with host := rest } := execWord_of_decode_ok (decode_encode i) _
    _ = .next t := h

/-! PUT's branches as steps of a run: the word is consumed and its byte taken. -/

section Run
variable {k : Nat} {s : State} {b : Byte} {rest : List HostEvent}

theorem run_lengthByte (hp : s.phase = .sLen) (hpos : s.pos ≠ 3#2)
    (hhost : s.host = .command (encode (.put b)) :: rest) :
    Host.Core.run core (k + 1) s = Host.Core.run core k
      { s with len := shiftIn s.len b, pos := s.pos + 1#2, out := s.out ++ [b], host := rest } :=
  run_command hhost ((putInSLenTakesALengthByte b { s with host := rest } hp).2 hpos)

theorem run_lengthByte_last (hp : s.phase = .sLen) (hpos : s.pos = 3#2)
    (hhost : s.host = .command (encode (.put b)) :: rest) :
    Host.Core.run core (k + 1) s = Host.Core.run core k
      { s with
        len := shiftIn s.len b, cnt := shiftIn s.len b, pos := 0#2, phase := .sType, out := s.out ++ [b],
        host := rest } :=
  run_command hhost ((putInSLenTakesALengthByte b { s with host := rest } hp).1 hpos)

/-- The four length bytes are assembled in `len`, loaded into `cnt` and emitted (R112). -/
theorem run_lengthField {b0 b1 b2 b3 : Byte} (hp : s.phase = .sLen) (hpos : s.pos = 0#2)
    (hhost : s.host = presented (expandPuts [b0, b1, b2, b3]) ++ rest) :
    Host.Core.run core (k + 4) s =
      Host.Core.run core k
        { s with
          len := fromBe32 b0 b1 b2 b3, cnt := fromBe32 b0 b1 b2 b3, pos := 0#2, phase := .sType,
          out := s.out ++ [b0, b1, b2, b3], host := rest } := by
  have hlen := shiftIn_four s.len b0 b1 b2 b3
  refine (run_lengthByte hp (by simp [hpos]) hhost).trans ?_
  refine (run_lengthByte (by exact hp) (by simp [hpos]) rfl).trans ?_
  refine (run_lengthByte (by exact hp) (by simp [hpos]) rfl).trans ?_
  refine (run_lengthByte_last (by exact hp) (by simp [hpos]) rfl).trans ?_
  simp [hlen]

theorem run_typeLetter (hp : s.phase = .sType) (hb : isLetter b = true) (hpos : s.pos ≠ 3#2)
    (hhost : s.host = .command (encode (.put b)) :: rest) :
    Host.Core.run core (k + 1) s = Host.Core.run core k
      { s with
        typ := shiftIn s.typ b, acc := upd s.acc b, pos := s.pos + 1#2, out := s.out ++ [b], host := rest } := by
  obtain ⟨-, hletter, -, -⟩ := putInSTypeTakesATypeByte b { s with host := rest } hp
  exact run_command hhost (hletter hb hpos)

theorem run_typeLetter_last (hp : s.phase = .sType) (hb : isLetter b = true) (hpos : s.pos = 3#2) (hcnt : s.cnt ≠ 0#32)
    (hhost : s.host = .command (encode (.put b)) :: rest) :
    Host.Core.run core (k + 1) s = Host.Core.run core k
      { s with
        typ := shiftIn s.typ b, acc := upd s.acc b, pos := 0#2, tfull := true, phase := .sData, out := s.out ++ [b],
        host := rest } := by
  obtain ⟨-, -, hlast, -⟩ := putInSTypeTakesATypeByte b { s with host := rest } hp
  exact run_command hhost (hlast hb hpos hcnt)

theorem run_typeLetter_last_noData (hp : s.phase = .sType) (hb : isLetter b = true) (hpos : s.pos = 3#2)
    (hcnt : s.cnt = 0#32) (hhost : s.host = .command (encode (.put b)) :: rest) :
    Host.Core.run core (k + 1) s = Host.Core.run core k (completeSer (upd s.acc b)
      { s with
        typ := shiftIn s.typ b, acc := upd s.acc b, pos := 0#2, tfull := true, out := s.out ++ [b], host := rest }) := by
  obtain ⟨-, -, -, hcomplete⟩ := putInSTypeTakesATypeByte b { s with host := rest } hp
  exact run_command hhost (hcomplete hb hpos hcnt)

theorem run_dataByte (hp : s.phase = .sData) (hge : 1#32 ≤ s.cnt) (hcnt : s.cnt ≠ 1#32)
    (hhost : s.host = .command (encode (.put b)) :: rest) :
    Host.Core.run core (k + 1) s = Host.Core.run core k
      { s with acc := upd s.acc b, cnt := s.cnt - 1#32, out := s.out ++ [b], host := rest } :=
  run_command hhost ((putInSDataTakesADataByte b { s with host := rest } hp hge).1 hcnt)

theorem run_dataByte_last (hp : s.phase = .sData) (hcnt : s.cnt = 1#32)
    (hhost : s.host = .command (encode (.put b)) :: rest) :
    Host.Core.run core (k + 1) s = Host.Core.run core k
      (completeSer (upd s.acc b) { s with acc := upd s.acc b, cnt := 0#32, out := s.out ++ [b], host := rest }) :=
  run_command hhost ((putInSDataTakesADataByte b { s with host := rest } hp (by simp [hcnt])).2 hcnt)

/-- The data bytes are fed and emitted, and the last completes the chunk (R114, R115). -/
theorem run_dataField {bs : List Byte} (hp : s.phase = .sData)
    (hcnt : s.cnt = BitVec.ofNat 32 (bs.length + 1)) (hle : bs.length + 1 ≤ Config.maxLen)
    (hhost : s.host = presented (expandPuts (b :: bs)) ++ rest) :
    Host.Core.run core (k + bs.length + 1) s =
      Host.Core.run core k (completeSer (updAll s.acc (b :: bs))
        { s with acc := updAll s.acc (b :: bs), cnt := 0#32, out := s.out ++ b :: bs, host := rest }) := by
  rw [Config.maxLen] at hle
  induction bs generalizing s b with
  | nil => exact run_dataByte_last hp hcnt hhost
  | cons c cs ih =>
    rw [List.length_cons] at hcnt hle
    have hge : 1#32 ≤ s.cnt := by bv_omega
    have hne : s.cnt ≠ 1#32 := by bv_omega
    have hnext : s.cnt - 1#32 = BitVec.ofNat 32 (cs.length + 1) := by bv_omega
    refine (run_dataByte hp hge hne hhost).trans ?_
    refine (ih (by exact hp) hnext (by omega) rfl).trans ?_
    simp [completeSer]

/-- The type letters and the data bytes are fed and emitted, and the last of them completes the chunk (R113 to R115). -/
theorem run_typeField_dataField {b0 b1 b2 b3 : Byte} {d : List Byte} (hp : s.phase = .sType) (hpos : s.pos = 0#2)
    (ht : isChunkType [b0, b1, b2, b3] = true) (hcnt : s.cnt = BitVec.ofNat 32 d.length)
    (hle : d.length ≤ Config.maxLen) (hhost : s.host = presented (expandPuts ([b0, b1, b2, b3] ++ d)) ++ rest) :
    Host.Core.run core (k + d.length + 4) s =
      Host.Core.run core k (completeSer (updAll s.acc ([b0, b1, b2, b3] ++ d))
        { s with
          typ := fromBe32 b0 b1 b2 b3, acc := updAll s.acc ([b0, b1, b2, b3] ++ d), cnt := 0#32, pos := 0#2,
          tfull := true, out := s.out ++ ([b0, b1, b2, b3] ++ d), host := rest }) := by
  have htyp := shiftIn_four s.typ b0 b1 b2 b3
  obtain ⟨h0, h1, h2, h3⟩ : isLetter b0 = true ∧ isLetter b1 = true ∧ isLetter b2 = true ∧ isLetter b3 = true := by
    simpa [isChunkType] using ht
  refine (run_typeLetter hp h0 (by simp [hpos]) hhost).trans ?_
  refine (run_typeLetter (by exact hp) h1 (by simp [hpos]) rfl).trans ?_
  refine (run_typeLetter (by exact hp) h2 (by simp [hpos]) rfl).trans ?_
  cases d with
  | nil =>
    refine (run_typeLetter_last_noData (by exact hp) h3 (by simp [hpos]) (by exact hcnt) rfl).trans ?_
    have hzero : s.cnt = 0#32 := hcnt
    simp [completeSer, htyp, hzero]
  | cons c cs =>
    rw [List.length_cons] at hcnt hle
    have hne : s.cnt ≠ 0#32 := by rw [Config.maxLen] at hle; bv_omega
    refine (run_typeLetter_last (by exact hp) h3 (by simp [hpos]) (by exact hne) rfl).trans ?_
    refine (run_dataField rfl (by exact hcnt) hle rfl).trans ?_
    simp [completeSer, htyp]

/-- SER opens the chunk, and its fields are run one after another (R67, R116). -/
theorem run_serchunk {t0 t1 t2 t3 : Byte} {d : List Byte} (hp : s.phase = .idle)
    (ht : isChunkType [t0, t1, t2, t3] = true) (hle : d.length ≤ Config.maxLen)
    (hhost : s.host = presented (Pseudo.serchunk [t0, t1, t2, t3] d).expand ++ rest) :
    Host.Core.run core (k + d.length + 4 + 4 + 1) s =
      Host.Core.run core k (completeSer (updAll Config.init ([t0, t1, t2, t3] ++ d))
        { startOperation .sLen s with
          len := BitVec.ofNat 32 d.length, typ := fromBe32 t0 t1 t2 t3,
          acc := updAll Config.init ([t0, t1, t2, t3] ++ d), tfull := true,
          out := s.out ++ be32 (BitVec.ofNat 32 d.length) ++ ([t0, t1, t2, t3] ++ d), host := rest }) := by
  have hlen := eq_fromBe32 (v := BitVec.ofNat 32 d.length) rfl
  refine (run_onlyInIdle hp hhost exec_ser).trans ?_
  refine (run_lengthField rfl rfl rfl).trans ?_
  refine (run_typeField_dataField rfl rfl ht hlen.symm hle rfl).trans ?_
  rw [← hlen]
  rfl

end Run

/-- Settles O30: the bytes emitted by the run are those of `serialize`, and outside ERROR `err` and `ephase` are clear. -/
theorem serializationTheorem : Obligations.SerializationTheorem := by
  intro s t0 t1 t2 t3 d rest hp ⟨⟨herr, hephase, _⟩, _⟩ ht hle hhost
  have herrNone : s.err = .none := by simpa [hp] using herr
  have hephaseIdle : s.ephase = .idle := hephase (by simp [hp])
  have hsteps : 1 + 4 + 4 + d.length = 0 + d.length + 4 + 4 + 1 := by omega
  have hacc : crc32 ([t0, t1, t2, t3] ++ d) ^^^ 0xFFFFFFFF#32 = updAll Config.init ([t0, t1, t2, t3] ++ d) := fin_fin _
  rw [hsteps, run_serchunk hp ht hle hhost, hacc]
  refine congrArg (Host.Outcome.next (σ := State)) ?_
  simp [completeSer, startOperation, serialize, crc32, herrNone, hephaseIdle]

end Sys2Proof.Machine
end

section
/-! PROOFS of the family 43_deserializer: DES (O31), PUT in the deserializer's phases (O32 to O35), the session as
`deserialize` says (O36), its earliest verdict (O37), the round trip (O38) and one wrong byte (O39, O40). -/

namespace Sys2Proof.Machine

/-! ### DES and PUT, one step (R131 to R135) -/

theorem exec_des (s : State) : exec .des s = .next (onlyInIdle (startOperation .dLen) s) := rfl

/-- Settles O31: the presets where `onlyInIdle` carries them out. -/
theorem desStartsDeserializing : Obligations.DesStartsDeserializing :=
  ⟨decode_encode .des, fun s => exec_of_idle (exec_des s), fun s => exec_of_error (exec_des s),
    fun s => exec_of_operation (exec_des s)⟩

section Put
variable {b : Byte} {s : State}

theorem exec_put_dLen (hp : s.phase = .dLen) : exec (.put b) s = .next (putDLen b s) := by
  simp [exec, execPut, hp]

theorem exec_put_dType (hp : s.phase = .dType) : exec (.put b) s = .next (putDType b s) := by
  simp [exec, execPut, hp]

theorem exec_put_dData (hp : s.phase = .dData) : exec (.put b) s = .next (putDData b s) := by
  simp [exec, execPut, hp]

theorem exec_put_dCrc (hp : s.phase = .dCrc) : exec (.put b) s = .next (putDCrc b s) := by
  simp [exec, execPut, hp]

end Put

/-- Settles O32: the two branches of `putDLen`. -/
theorem putInDLenTakesALengthByte : Obligations.PutInDLenTakesALengthByte := by
  intro b s hp
  rw [exec_put_dLen hp]
  rcases putDLen_cases b s with ⟨hpos, he⟩ | ⟨hpos, he⟩ <;> rw [he]
  · exact ⟨fun _ => rfl, fun hne => absurd hpos hne⟩
  · exact ⟨fun h3 => absurd h3 hpos, fun _ => rfl⟩

/-- Settles O33: the four branches of `putDType`. -/
theorem putInDTypeTakesATypeByte : Obligations.PutInDTypeTakesATypeByte := by
  intro b s hp
  rw [exec_put_dType hp]
  rcases putDType_cases b s with ⟨hb, he⟩ | ⟨hb, hpos, he⟩ | ⟨hb, hpos, hcnt, he⟩ | ⟨hb, hpos, hcnt, he⟩ <;> rw [he]
  · simp [hb, raise, hp, shiftIn, zext32]
  · simp [hb, hpos, shiftIn, zext32]
  · simp [hb, hpos, hcnt, shiftIn, zext32]
  · simp [hb, hpos, hcnt, shiftIn, zext32]

/-- Settles O34: the two branches of `putDData`. -/
theorem putInDDataTakesADataByte : Obligations.PutInDDataTakesADataByte := by
  intro b s hp _
  rw [exec_put_dData hp]
  rcases putDData_cases b s with ⟨hcnt, he⟩ | ⟨hcnt, he⟩ <;> rw [he]
  · exact ⟨fun _ => rfl, fun h1 => absurd h1 hcnt⟩
  · exact ⟨fun hne => absurd hcnt hne, fun _ => rfl⟩

/-- Settles O35: the three branches of `putDCrc`. -/
theorem putInDCrcTakesAChecksumByte : Obligations.PutInDCrcTakesAChecksumByte := by
  intro b s hp
  rw [exec_put_dCrc hp]
  rcases putDCrc_cases b s with ⟨hpos, he⟩ | ⟨hpos, heq, he⟩ | ⟨hpos, hne, he⟩ <;> rw [he]
  · exact ⟨fun _ => rfl, fun h3 => absurd h3 hpos, fun h3 => absurd h3 hpos⟩
  · exact ⟨fun hne => absurd hpos hne, fun _ _ => rfl, fun _ hne => absurd heq hne⟩
  · refine ⟨fun hne3 => absurd hpos hne3, fun _ heq => absurd heq hne, fun _ _ => ?_⟩
    simp [raise, hp, shiftIn, zext32]

/-! ### The fields of a chunk, fed one after another (R132 to R136) -/

/-- Shifting in the four bytes of a word gives the word, whatever the register held. -/
theorem foldl_shiftIn_be32 (r v : Word) : (be32 v).foldl shiftIn r = v :=
  (shiftIn_four r _ _ _ _).trans (eq_fromBe32 rfl).symm

theorem isChunkType_be32 (typ : Word) : isChunkType (be32 typ) = (be32 typ).all isLetter := by
  simp [isChunkType]

section Feed
variable {s : State} {b : Byte} {bytes rest : List Byte}

theorem inOperation_of_phase {p : Phase} (hp : s.phase = p) (h : p.inOperation = true) :
    s.phase.inOperation = true := hp ▸ h

/-- Length bytes before the fourth are shifted into `len` and nothing else happens. -/
theorem feed_lengthBytes (hp : s.phase = .dLen) (h : s.pos.toNat + bytes.length < 4) :
    feed (bytes ++ rest) s =
      feed rest { s with len := bytes.foldl shiftIn s.len, pos := s.pos + BitVec.ofNat 2 bytes.length } := by
  induction bytes generalizing s with
  | nil => simp
  | cons b bs ih =>
    rw [List.length_cons] at h
    have hpos : s.pos ≠ 3#2 := by bv_omega
    refine (feed_cons (inOperation_of_phase hp rfl) ((putInDLenTakesALengthByte b s hp).2 hpos)).trans ?_
    refine (ih (by exact hp) (by simp only; bv_omega)).trans ?_
    have hnext : s.pos + 1#2 + BitVec.ofNat 2 bs.length = s.pos + BitVec.ofNat 2 (bs.length + 1) := by bv_omega
    simp [hnext, shiftIn, zext32]

theorem feed_lengthByte_last (hp : s.phase = .dLen) (hpos : s.pos = 3#2) :
    feed (b :: rest) s = feed rest
      { s with len := shiftIn s.len b, cnt := shiftIn s.len b, pos := 0#2, phase := .dType } :=
  feed_cons (inOperation_of_phase hp rfl) ((putInDLenTakesALengthByte b s hp).1 hpos)

/-- The length field fills `len` and `cnt` (R132). -/
theorem feed_lengthField {len : Word} (hp : s.phase = .dLen) (hpos : s.pos = 0#2) :
    feed (be32 len ++ rest) s = feed rest { s with len := len, cnt := len, pos := 0#2, phase := .dType } := by
  have hlen := foldl_shiftIn_be32 s.len len
  refine (feed_lengthBytes (bytes := (be32 len).take 3) hp (by simp [hpos])).trans ?_
  refine (feed_lengthByte_last (by exact hp) (by simp [hpos])).trans ?_
  exact congrArg (fun l => feed rest { s with len := l, cnt := l, pos := 0#2, phase := .dType }) hlen

theorem feed_typeLetter (hp : s.phase = .dType) (hb : isLetter b = true) (hpos : s.pos ≠ 3#2) :
    feed (b :: rest) s = feed rest { s with typ := shiftIn s.typ b, acc := upd s.acc b, pos := s.pos + 1#2 } := by
  obtain ⟨-, hletter, -, -⟩ := putInDTypeTakesATypeByte b s hp
  exact feed_cons (inOperation_of_phase hp rfl) (hletter hb hpos)

theorem feed_typeLetter_last (hp : s.phase = .dType) (hb : isLetter b = true) (hpos : s.pos = 3#2) :
    feed (b :: rest) s = feed rest
      { s with
        typ := shiftIn s.typ b, acc := upd s.acc b, pos := 0#2, tfull := true,
        phase := if s.cnt = 0#32 then .dCrc else .dData } := by
  obtain ⟨-, -, hdata, hnoData⟩ := putInDTypeTakesATypeByte b s hp
  have ho := inOperation_of_phase hp rfl
  by_cases hcnt : s.cnt = 0#32
  · simpa [hcnt, shiftIn, zext32] using feed_cons ho (hnoData hb hpos hcnt)
  · simpa [hcnt, shiftIn, zext32] using feed_cons ho (hdata hb hpos hcnt)

/-- The type field fills `typ` and `tfull`, and the phase after it depends on whether there is data (R133). -/
theorem feed_typeField {typ : Word} (hp : s.phase = .dType) (hpos : s.pos = 0#2) (ht : isChunkType (be32 typ) = true) :
    feed (be32 typ ++ rest) s = feed rest
      { s with
        typ := typ, acc := updAll s.acc (be32 typ), pos := 0#2, tfull := true,
        phase := if s.cnt = 0#32 then .dCrc else .dData } := by
  have htyp := foldl_shiftIn_be32 s.typ typ
  obtain ⟨h0, h1, h2, h3⟩ := by simpa [isChunkType, be32] using ht
  refine (feed_typeLetter hp h0 (by simp [hpos])).trans ?_
  refine (feed_typeLetter (by exact hp) h1 (by simp [hpos])).trans ?_
  refine (feed_typeLetter (by exact hp) h2 (by simp [hpos])).trans ?_
  refine (feed_typeLetter_last (by exact hp) h3 (by simp [hpos])).trans ?_
  exact congrArg (fun t => feed rest
    { s with
      typ := t, acc := updAll s.acc (be32 typ), pos := 0#2, tfull := true,
      phase := if s.cnt = 0#32 then .dCrc else .dData }) htyp

/-- A type field that is not four letters ends the session, at its first byte that is no letter or where it is cut off
(R133, R152). -/
theorem feed_badType {k : Nat} {e : DesError} (hp : s.phase = .dType) (hk : s.pos.toNat + k = 4)
    (h : typeFieldError k bytes = some e) :
    ∃ v left, feed bytes s = .next (raise e.errCode v, left) ∧ v.out = s.out ∧ (e = .truncated → left = []) := by
  have ho := inOperation_of_phase hp rfl
  fun_induction typeFieldError k bytes generalizing s with
  | case1 => cases h
  | case2 => cases h; exact ⟨s, [], feed_nil ho, rfl, fun _ => rfl⟩
  | case3 k b bs hb ih =>
    have hpos : s.pos ≠ 3#2 := by
      intro h3
      obtain rfl : k = 0 := by bv_omega
      cases h
    rw [feed_typeLetter hp hb hpos]
    exact ih (by exact hp) (by simp only; bv_omega) h ho
  | case4 k b bs hb =>
    cases h
    obtain ⟨hbad, -, -, -⟩ := putInDTypeTakesATypeByte b s hp
    refine ⟨{ s with typ := shiftIn s.typ b }, bs, ?_, rfl, by simp⟩
    rw [feed_cons ho (hbad (by simpa using hb)), feed_over rfl]
    simp [raise, hp, shiftIn, zext32, DesError.errCode]

theorem feed_dataByte (hp : s.phase = .dData) (hcnt : s.cnt ≠ 0#32) :
    feed (b :: rest) s = feed rest
      { s with
        acc := upd s.acc b, cnt := s.cnt - 1#32, phase := if s.cnt - 1#32 = 0#32 then .dCrc else .dData,
        out := s.out ++ [b] } := by
  obtain ⟨hmore, hlast⟩ := putInDDataTakesADataByte b s hp (by bv_omega)
  have ho := inOperation_of_phase hp rfl
  by_cases h1 : s.cnt = 1#32
  · simpa [h1] using feed_cons ho (hlast h1)
  · have hne : s.cnt - 1#32 ≠ 0#32 := by bv_omega
    simpa [hne, hp] using feed_cons ho (hmore h1)

/-- The data field, empty or not, is fed and emitted, and the checksum field is next (R134). -/
theorem feed_dataField {d : List Byte} (hp : s.phase = if s.cnt = 0#32 then .dCrc else .dData)
    (hd : d.length = s.cnt.toNat) :
    feed (d ++ rest) s = feed rest
      { s with acc := updAll s.acc d, cnt := 0#32, phase := .dCrc, out := s.out ++ d } := by
  induction d generalizing s with
  | nil =>
    have hcnt : s.cnt = 0#32 := by rw [List.length_nil] at hd; bv_omega
    rw [if_pos hcnt] at hp
    simp [← hcnt, ← hp]
  | cons b bs ih =>
    rw [List.length_cons] at hd
    have hcnt : s.cnt ≠ 0#32 := by rintro h; simp [h] at hd
    rw [if_neg hcnt] at hp
    refine (feed_dataByte hp hcnt).trans ((ih rfl (by simp only; bv_omega)).trans ?_)
    simp

/-- A data field that is cut off is emitted as far as it goes, and the session ends in Truncated (R134, R152). -/
theorem feed_shortData {d : List Byte} (hp : s.phase = .dData) (hd : d.length < s.cnt.toNat) :
    ∃ v, feed d s = .next (raise .truncated v, []) ∧ v.out = s.out ++ d := by
  induction d generalizing s with
  | nil => exact ⟨s, feed_nil (inOperation_of_phase hp rfl), by simp⟩
  | cons b bs ih =>
    rw [List.length_cons] at hd
    have hcnt : s.cnt - 1#32 ≠ 0#32 := by bv_omega
    rw [feed_dataByte hp (by rintro h; simp [h] at hd), if_neg hcnt]
    simpa using ih (s := { s with acc := upd s.acc b, cnt := s.cnt - 1#32, phase := .dData, out := s.out ++ [b] }) rfl
      (by simp only; bv_omega)

/-- Checksum bytes before the fourth are shifted into `stored` and nothing else happens. -/
theorem feed_checksumBytes (hp : s.phase = .dCrc) (h : s.pos.toNat + bytes.length < 4) :
    feed (bytes ++ rest) s =
      feed rest { s with stored := bytes.foldl shiftIn s.stored, pos := s.pos + BitVec.ofNat 2 bytes.length } := by
  induction bytes generalizing s with
  | nil => simp
  | cons b bs ih =>
    rw [List.length_cons] at h
    have hpos : s.pos ≠ 3#2 := by bv_omega
    obtain ⟨hmore, -⟩ := putInDCrcTakesAChecksumByte b s hp
    refine (feed_cons (inOperation_of_phase hp rfl) (hmore hpos)).trans ?_
    refine (ih (by exact hp) (by simp only; bv_omega)).trans ?_
    have hnext : s.pos + 1#2 + BitVec.ofNat 2 bs.length = s.pos + BitVec.ofNat 2 (bs.length + 1) := by bv_omega
    simp [hnext, shiftIn, zext32]

end Feed

/-- The verdict on the stored checksum `c` (R135). -/
def verdict (c : Word) (s : State) : State :=
  if c = fin s.acc then { s with stored := c, pos := 0#2, phase := .idle, done := true }
  else raise .checksumMismatch { s with stored := c, pos := 3#2 }

theorem verdict_right {c : Word} {s : State} (h : c = fin s.acc) :
    verdict c s = { s with stored := c, pos := 0#2, phase := .idle, done := true } := if_pos h

theorem verdict_wrong {c : Word} {s : State} (h : c ≠ fin s.acc) :
    verdict c s = raise .checksumMismatch { s with stored := c, pos := 3#2 } := if_neg h

theorem inOperation_verdict (c : Word) (s : State) : (verdict c s).phase.inOperation = false := by
  unfold verdict
  split <;> rfl

theorem feed_checksumByte_last {s : State} {b : Byte} {rest : List Byte} (hp : s.phase = .dCrc) (hpos : s.pos = 3#2) :
    feed (b :: rest) s = .next (verdict (shiftIn s.stored b) s, rest) := by
  refine (feed_cons (inOperation_of_phase hp rfl) ?_).trans (feed_over (inOperation_verdict _ s))
  obtain ⟨-, hright, hwrong⟩ := putInDCrcTakesAChecksumByte b s hp
  by_cases h : shiftIn s.stored b = fin s.acc
  · rw [verdict_right h]
    exact hright hpos h
  · rw [verdict_wrong h, hwrong hpos h]
    simp [raise, hp, hpos, shiftIn, zext32]

/-- The checksum field ends the session with the verdict (R135). -/
theorem feed_checksumField {s : State} {c : Word} {rest : List Byte} (hp : s.phase = .dCrc) (hpos : s.pos = 0#2) :
    feed (be32 c ++ rest) s = .next (verdict c s, rest) := by
  have hstored := foldl_shiftIn_be32 s.stored c
  refine (feed_checksumBytes (bytes := (be32 c).take 3) hp (by simp [hpos])).trans ?_
  refine (feed_checksumByte_last (by exact hp) (by simp [hpos])).trans ?_
  exact congrArg (fun stored => Host.Outcome.next (verdict stored s, rest)) hstored

/-! ### `deserialize` on each shape of its input (R130) -/

theorem exists_be32_append {bytes : List Byte} (h : 4 ≤ bytes.length) : ∃ v rest, bytes = be32 v ++ rest := by
  match bytes, h with
  | b0 :: b1 :: b2 :: b3 :: rest, _ => exact ⟨fromBe32 b0 b1 b2 b3, rest, by rw [be32_fromBe32]; rfl⟩

theorem typeFieldError_of_le {k : Nat} {bytes : List Byte} (h : k ≤ bytes.length) :
    typeFieldError k bytes = if (bytes.take k).all isLetter then none else some .invalidChunkType := by
  fun_induction typeFieldError k bytes with
  | case1 => simp
  | case2 => simp at h
  | case3 k b bs hb ih => simpa [hb] using ih (by simpa using h)
  | case4 k b bs hb => simp [hb]

theorem le_length_of_typeFieldError_none {k : Nat} {bytes : List Byte} (h : typeFieldError k bytes = none) :
    k ≤ bytes.length := by
  fun_induction typeFieldError k bytes with
  | case1 => exact Nat.zero_le _
  | case2 => cases h
  | case3 k b bs hb ih => simpa using ih h
  | case4 => cases h

theorem typeFieldError_some_cases {k : Nat} {bytes : List Byte} {e : DesError} (h : typeFieldError k bytes = some e) :
    e = .invalidChunkType ∨ (e = .truncated ∧ bytes.length < k) := by
  fun_induction typeFieldError k bytes with
  | case1 => cases h
  | case2 => cases h; exact .inr ⟨rfl, Nat.succ_pos _⟩
  | case3 k b bs hb ih => simpa using ih h
  | case4 => cases h; exact .inl rfl

/-- Four letters pass the check. -/
theorem typeFieldError_of_isChunkType {typ : Word} (ht : isChunkType (be32 typ) = true) (tail : List Byte) :
    typeFieldError 4 (be32 typ ++ tail) = none := by
  rw [typeFieldError_of_le (by simp), List.take_left' (be32_length typ), ← isChunkType_be32, if_pos ht]

theorem exists_type_of_typeFieldError_none {bytes : List Byte} (h : typeFieldError 4 bytes = none) :
    ∃ typ tail, bytes = be32 typ ++ tail ∧ isChunkType (be32 typ) = true := by
  have hle := le_length_of_typeFieldError_none h
  obtain ⟨typ, tail, rfl⟩ := exists_be32_append hle
  rw [typeFieldError_of_le hle, List.take_left' (be32_length typ), ← isChunkType_be32] at h
  exact ⟨typ, tail, rfl, by simpa using h⟩

/-- A byte sequence as the fields of a chunk, as far as it goes, with the result `deserialize` has for it: one
constructor per way through R130. -/
inductive Reads : List Byte → DesResult → Prop
  | shortLength {bytes : List Byte} (h : bytes.length < 4) : Reads bytes (.error .truncated)
  | badType {len : Word} {body : List Byte} {e : DesError} (h : typeFieldError 4 body = some e) :
    Reads (be32 len ++ body) (.error e)
  | shortData {len typ : Word} {d : List Byte} (ht : isChunkType (be32 typ) = true) (hd : d.length < len.toNat) :
    Reads (be32 len ++ (be32 typ ++ d)) (.error .truncated)
  | shortChecksum {len typ : Word} {d bytes : List Byte} (ht : isChunkType (be32 typ) = true)
    (hd : d.length = len.toNat) (hc : bytes.length < 4) :
    Reads (be32 len ++ (be32 typ ++ (d ++ bytes))) (.error .truncated)
  | wrongChecksum {len typ c : Word} {d rest : List Byte} (ht : isChunkType (be32 typ) = true)
    (hd : d.length = len.toNat) (hc : c ≠ crc32 (be32 typ ++ d)) :
    Reads (be32 len ++ (be32 typ ++ (d ++ (be32 c ++ rest)))) (.error .checksumMismatch)
  | rightChecksum {len typ c : Word} {d rest : List Byte} (ht : isChunkType (be32 typ) = true)
    (hd : d.length = len.toNat) (hc : c = crc32 (be32 typ ++ d)) :
    Reads (be32 len ++ (be32 typ ++ (d ++ (be32 c ++ rest)))) (.ok (be32 typ) d c rest)

theorem exists_reads (bytes : List Byte) : ∃ r, Reads bytes r := by
  by_cases h4 : bytes.length < 4
  · exact ⟨_, .shortLength h4⟩
  obtain ⟨len, body, rfl⟩ := exists_be32_append (not_lt.1 h4)
  cases htype : typeFieldError 4 body with
  | some e => exact ⟨_, .badType htype⟩
  | none =>
    obtain ⟨typ, tail, rfl, ht⟩ := exists_type_of_typeFieldError_none htype
    by_cases hn : tail.length < len.toNat
    · exact ⟨_, .shortData ht hn⟩
    have hd : (tail.take len.toNat).length = len.toNat := by simp; omega
    rw [← List.take_append_drop len.toNat tail]
    by_cases hc : (tail.drop len.toNat).length < 4
    · exact ⟨_, .shortChecksum ht hd hc⟩
    obtain ⟨c, rest, hcrest⟩ := exists_be32_append (not_lt.1 hc)
    rw [hcrest]
    by_cases hcrc : c = crc32 (be32 typ ++ tail.take len.toNat)
    · exact ⟨_, .rightChecksum ht hd hcrc⟩
    · exact ⟨_, .wrongChecksum ht hd hcrc⟩

theorem deserialize_of_length_lt {bytes : List Byte} (h : bytes.length < 4) :
    deserialize bytes = .error .truncated := by
  match bytes, h with
  | [], _ | [_], _ | [_, _], _ | [_, _, _], _ => rfl

theorem deserialize_badType {len : Word} {body : List Byte} {e : DesError} (h : typeFieldError 4 body = some e) :
    deserialize (be32 len ++ body) = .error e := by
  simp only [deserialize, be32, List.cons_append, List.nil_append, h]

theorem deserialize_goodType {len : Word} {body : List Byte} (h : typeFieldError 4 body = none) :
    deserialize (be32 len ++ body) =
      if body.length < len.toNat + 8 then .error .truncated
      else checkChecksum (body.take 4) ((body.drop 4).take len.toNat) ((body.drop 4).drop len.toNat) := by
  have hlen := (eq_fromBe32 (v := len) rfl).symm
  have hsize : body.length + 1 + 1 + 1 + 1 < 12 + len.toNat ↔ body.length < len.toNat + 8 := by omega
  simp only [deserialize, be32, List.cons_append, List.nil_append, List.length_cons, hlen, hsize, h]

theorem deserialize_typed {len typ : Word} {tail : List Byte} (ht : isChunkType (be32 typ) = true) :
    deserialize (be32 len ++ (be32 typ ++ tail)) =
      if tail.length < len.toNat + 4 then .error .truncated
      else checkChecksum (be32 typ) (tail.take len.toNat) (tail.drop len.toNat) := by
  have hsize : 4 + tail.length < len.toNat + 8 ↔ tail.length < len.toNat + 4 := by omega
  rw [deserialize_goodType (typeFieldError_of_isChunkType ht tail), List.take_left' (be32_length typ),
    List.drop_left' (be32_length typ)]
  simp only [List.length_append, be32_length, hsize]

theorem checkChecksum_be32_append (t d rest : List Byte) (c : Word) :
    checkChecksum t d (be32 c ++ rest) =
      if c = crc32 (t ++ d) then .ok t d c rest else .error .checksumMismatch := by
  simp only [checkChecksum, be32, List.cons_append, List.nil_append, ← eq_fromBe32 (v := c) rfl]

theorem deserialize_complete {len typ c : Word} {d rest : List Byte} (ht : isChunkType (be32 typ) = true)
    (hd : d.length = len.toNat) :
    deserialize (be32 len ++ (be32 typ ++ (d ++ (be32 c ++ rest)))) =
      if c = crc32 (be32 typ ++ d) then .ok (be32 typ) d c rest else .error .checksumMismatch := by
  rw [deserialize_typed ht, if_neg (by simp; omega), List.take_left' hd, List.drop_left' hd, checkChecksum_be32_append]

theorem Reads.deserialize_eq {bytes : List Byte} {r : DesResult} (h : Reads bytes r) : deserialize bytes = r := by
  cases h with
  | shortLength h => exact deserialize_of_length_lt h
  | badType h => exact deserialize_badType h
  | shortData ht hd => rw [deserialize_typed ht, if_pos (by omega)]
  | shortChecksum ht hd hc => rw [deserialize_typed ht, if_pos (by simp; omega)]
  | wrongChecksum ht hd hc => rw [deserialize_complete ht hd, if_neg hc]
  | rightChecksum ht hd hc => rw [deserialize_complete ht hd, if_pos hc]

/-- A result of `deserialize` tells the shape of the bytes. -/
theorem reads_of_deserialize_eq {bytes : List Byte} {r : DesResult} (h : deserialize bytes = r) : Reads bytes r := by
  obtain ⟨r', hreads⟩ := exists_reads bytes
  rwa [← h, hreads.deserialize_eq]

@[simp] theorem declaredLength_be32_append (len : Word) (body : List Byte) :
    declaredLength (be32 len ++ body) = len.toNat :=
  congrArg BitVec.toNat (eq_fromBe32 (v := len) rfl).symm

@[simp] theorem drop_length_type (len typ : Word) (tail : List Byte) :
    (be32 len ++ (be32 typ ++ tail)).drop 8 = tail := rfl

/-! ### The session on each shape (R136) -/

section Session
variable {s : State} {len typ : Word} {d : List Byte}

theorem desSession_of_idle (hp : s.phase = .idle) (bytes : List Byte) :
    desSession bytes s = feed bytes (startOperation .dLen s) := by
  simp [desSession, exec_of_idle (exec_des s) hp]

/-- The block after the length, type and data fields of a DES operation. -/
def atChecksum (len typ : Word) (d : List Byte) (s : State) : State :=
  { startOperation .dLen s with
    len := len, typ := typ, acc := updAll Config.init (be32 typ ++ d), tfull := true, phase := .dCrc, out := s.out ++ d }

/-- The block after the length and type fields of a DES operation. -/
def atData (len typ : Word) (s : State) : State :=
  { startOperation .dLen s with
    len := len, cnt := len, typ := typ, acc := updAll Config.init (be32 typ), tfull := true,
    phase := if len = 0#32 then .dCrc else .dData }

/-- The block after the length field of a DES operation. -/
def atType (len : Word) (s : State) : State :=
  { startOperation .dLen s with len := len, cnt := len, phase := .dType }

theorem desSession_length (hp : s.phase = .idle) (body : List Byte) :
    desSession (be32 len ++ body) s = feed body (atType len s) :=
  (desSession_of_idle hp _).trans (feed_lengthField rfl rfl)

theorem desSession_type (hp : s.phase = .idle) (ht : isChunkType (be32 typ) = true) (tail : List Byte) :
    desSession (be32 len ++ (be32 typ ++ tail)) s = feed tail (atData len typ s) :=
  (desSession_length hp _).trans (feed_typeField rfl rfl ht)

theorem desSession_data (hp : s.phase = .idle) (ht : isChunkType (be32 typ) = true) (hd : d.length = len.toNat)
    (tail : List Byte) :
    desSession (be32 len ++ (be32 typ ++ (d ++ tail))) s = feed tail (atChecksum len typ d s) := by
  rw [desSession_type hp ht, feed_dataField rfl hd]
  simp [atChecksum, atData, startOperation, updAll_append]

/-- The session on a whole chunk ends with the verdict on its checksum. -/
theorem desSession_checksum {c : Word} {rest : List Byte} (hp : s.phase = .idle) (ht : isChunkType (be32 typ) = true)
    (hd : d.length = len.toNat) :
    desSession (be32 len ++ (be32 typ ++ (d ++ (be32 c ++ rest)))) s =
      .next (verdict c (atChecksum len typ d s), rest) :=
  (desSession_data hp ht hd _).trans (feed_checksumField rfl rfl)

theorem fin_acc_atChecksum : fin (atChecksum len typ d s).acc = crc32 (be32 typ ++ d) := rfl

theorem desSession_rightChecksum {rest : List Byte} (hp : s.phase = .idle) (ht : isChunkType (be32 typ) = true)
    (hd : d.length = len.toNat) :
    desSession (be32 len ++ (be32 typ ++ (d ++ (be32 (crc32 (be32 typ ++ d)) ++ rest)))) s =
      .next ({ atChecksum len typ d s with
        stored := crc32 (be32 typ ++ d), pos := 0#2, phase := .idle, done := true }, rest) := by
  rw [desSession_checksum hp ht hd, verdict_right fin_acc_atChecksum.symm]

theorem desSession_wrongChecksum {c : Word} {rest : List Byte} (hp : s.phase = .idle)
    (ht : isChunkType (be32 typ) = true) (hd : d.length = len.toNat) (hc : c ≠ crc32 (be32 typ ++ d)) :
    desSession (be32 len ++ (be32 typ ++ (d ++ (be32 c ++ rest)))) s =
      .next (raise .checksumMismatch { atChecksum len typ d s with stored := c, pos := 3#2 }, rest) := by
  rw [desSession_checksum hp ht hd, verdict_wrong hc]

/-- A session on fewer bytes than a length field ends in Truncated. -/
theorem desSession_shortLength {bytes : List Byte} (hp : s.phase = .idle) (h : bytes.length < 4) :
    ∃ v, desSession bytes s = .next (raise .truncated v, []) ∧ v.out = s.out := by
  have hfeed := feed_lengthBytes (s := startOperation .dLen s) (rest := []) rfl (by simpa using h)
  rw [List.append_nil, feed_nil rfl] at hfeed
  exact ⟨_, (desSession_of_idle hp bytes).trans hfeed, rfl⟩

/-- A session on a checksum field cut off ends in Truncated, all the data emitted. -/
theorem desSession_shortChecksum {bytes : List Byte} (hp : s.phase = .idle) (ht : isChunkType (be32 typ) = true)
    (hd : d.length = len.toNat) (h : bytes.length < 4) :
    ∃ v, desSession (be32 len ++ (be32 typ ++ (d ++ bytes))) s = .next (raise .truncated v, []) ∧
      v.out = s.out ++ d := by
  have hfeed := feed_checksumBytes (s := atChecksum len typ d s) (rest := []) rfl
    (by simpa [atChecksum] using h)
  rw [List.append_nil, feed_nil rfl] at hfeed
  exact ⟨_, (desSession_data hp ht hd bytes).trans hfeed, rfl⟩

/-- A session on a data field cut off ends in Truncated, the data present emitted. -/
theorem desSession_shortData (hp : s.phase = .idle) (ht : isChunkType (be32 typ) = true) (hd : d.length < len.toNat) :
    ∃ v, desSession (be32 len ++ (be32 typ ++ d)) s = .next (raise .truncated v, []) ∧ v.out = s.out ++ d := by
  have hlen : len ≠ 0#32 := by rintro rfl; exact absurd hd (Nat.not_lt_zero _)
  rw [desSession_type hp ht]
  exact feed_shortData (s := atData len typ s) (if_neg hlen) hd

/-- Where `deserialize` gives an error the session raises it, the data present emitted; Truncated takes all bytes. -/
theorem desSession_error {bytes : List Byte} {e : DesError} (hp : s.phase = .idle)
    (h : deserialize bytes = .error e) :
    ∃ v left, desSession bytes s = .next (raise e.errCode v, left) ∧ (e = .truncated → left = []) ∧
      v.out = s.out ++ (if e = .invalidChunkType then [] else (bytes.drop 8).take (declaredLength bytes)) := by
  cases reads_of_deserialize_eq h with
  | shortLength hshort =>
    obtain ⟨v, hend, hout⟩ := desSession_shortLength hp hshort
    refine ⟨v, [], hend, fun _ => rfl, ?_⟩
    rw [hout, List.drop_eq_nil_of_le (by omega)]
    simp
  | @badType len body e htype =>
    obtain ⟨v, left, hend, hout, hleft⟩ := feed_badType (s := atType len s) rfl rfl htype
    refine ⟨v, left, (desSession_length hp body).trans hend, hleft, hout.trans ?_⟩
    rcases typeFieldError_some_cases htype with rfl | ⟨rfl, hlt⟩
    · simp [atType]
    · rw [List.drop_eq_nil_of_le (by simp; omega)]
      simp [atType]
  | shortData ht hd =>
    obtain ⟨v, hend, hout⟩ := desSession_shortData hp ht hd
    refine ⟨v, [], hend, fun _ => rfl, ?_⟩
    simp [hout, List.take_of_length_le hd.le]
  | shortChecksum ht hd hc =>
    obtain ⟨v, hend, hout⟩ := desSession_shortChecksum hp ht hd hc
    refine ⟨v, [], hend, fun _ => rfl, ?_⟩
    simp [hout, ← hd]
  | wrongChecksum ht hd hc =>
    refine ⟨_, _, desSession_wrongChecksum hp ht hd hc, by simp, ?_⟩
    simp [← hd, atChecksum]

end Session

/-- Settles O36: shape by shape, the session ends as `deserialize` says; outside ERROR `err` is clear. -/
theorem deserializationTheorem : Obligations.DeserializationTheorem := by
  intro s bytes hp ⟨⟨herr, _⟩, _⟩
  have herrNone : s.err = .none := by simpa [hp] using herr
  cases h : deserialize bytes with
  | error e =>
    obtain ⟨v, left, hend, -, hout⟩ := desSession_error hp h
    exact ⟨_, left, hend, rfl, rfl, hout⟩
  | ok t d c rest =>
    cases reads_of_deserialize_eq h with
    | rightChecksum ht hd hc =>
      subst hc
      refine ⟨rfl, by simp; omega, _, desSession_rightChecksum hp ht hd, rfl, rfl, rfl, ?_, rfl, rfl, ?_, rfl, herrNone⟩
      · simp [atChecksum, hd]
      · exact (fin_fin _).symm

/-! ### The earliest verdict (R136, R176) -/

theorem feed_nil_rest {s u : State} {rest : List Byte} (h : feed [] s = .next (u, rest)) : rest = [] := by
  cases ho : s.phase.inOperation with
  | true => rw [feed_nil ho] at h; cases h; rfl
  | false => rw [feed_over ho] at h; cases h; rfl

/-- What a run of `feed` took: alone it gives the same end, and with less of it the block is still inside the
operation when END comes. -/
theorem feed_taken {bytes rest : List Byte} {s u : State} (h : feed bytes s = .next (u, rest)) :
    ∃ taken, bytes = taken ++ rest ∧ feed taken s = .next (u, []) ∧
      ∀ shorter, shorter <+: taken → shorter ≠ taken → ∃ v, feed shorter s = .next (raise .truncated v, []) := by
  induction bytes generalizing s with
  | nil =>
    obtain rfl := feed_nil_rest h
    exact ⟨[], rfl, h, fun shorter hpre hne => absurd (List.prefix_nil.1 hpre) hne⟩
  | cons b bs ih =>
    cases ho : s.phase.inOperation with
    | false =>
      rw [feed_over ho] at h
      cases h
      exact ⟨[], rfl, feed_over ho, fun shorter hpre hne => absurd (List.prefix_nil.1 hpre) hne⟩
    | true =>
      obtain ⟨t, ht⟩ := exec_total (.put b) s
      rw [feed_cons ho ht] at h
      obtain ⟨taken, rfl, htaken, hshorter⟩ := ih h
      refine ⟨b :: taken, rfl, (feed_cons ho ht).trans htaken, fun shorter hpre hne => ?_⟩
      rcases List.prefix_cons_iff.1 hpre with rfl | ⟨shorter, rfl, hpre'⟩
      · exact ⟨s, feed_nil ho⟩
      · rw [feed_cons ho ht]
        exact hshorter shorter hpre' (by simpa using hne)

theorem errCode_eq_truncated_iff (e : DesError) : e.errCode = .truncated ↔ e = .truncated := by
  cases e <;> decide

/-- A session ends in Truncated exactly where `deserialize` does. -/
theorem err_eq_truncated_iff {s u : State} {bytes rest : List Byte} (hp : s.phase = .idle) (hs : ControlInv s)
    (h : desSession bytes s = .next (u, rest)) : u.err = .truncated ↔ deserialize bytes = .error .truncated := by
  have hend := deserializationTheorem s bytes hp hs
  cases hr : deserialize bytes with
  | ok t d c left =>
    rw [hr] at hend
    obtain ⟨-, -, v, hv, -, -, -, -, -, -, -, -, hnone⟩ := hend
    obtain ⟨rfl, -⟩ := by simpa [h] using hv
    simp [hnone]
  | error e =>
    obtain ⟨v, left, hv, -⟩ := desSession_error hp hr
    obtain ⟨rfl, -⟩ := by simpa [h] using hv
    rw [raise_err, DesResult.error.injEq, errCode_eq_truncated_iff]

/-- Settles O37: less than what was taken ends in Truncated, and what was taken ends as all the bytes do. -/
theorem verdictComesAtTheEarliestByte : Obligations.VerdictComesAtTheEarliestByte := by
  intro s u bytes rest hp hs h
  have hfeed := h
  rw [desSession_of_idle hp] at hfeed
  obtain ⟨taken, hbytes, htaken, hshorter⟩ := feed_taken hfeed
  rw [← desSession_of_idle hp] at htaken
  refine ⟨taken, hbytes, fun htrunc => ?_, fun hdecided => ⟨?_, fun shorter hpre hne => ?_⟩⟩
  · obtain ⟨v, left, hend, hleft, -⟩ := desSession_error hp htrunc
    obtain ⟨-, rfl⟩ := by simpa [h] using hend
    exact hleft rfl
  · rwa [Ne, ← err_eq_truncated_iff hp hs htaken, err_eq_truncated_iff hp hs h]
  · obtain ⟨v, hv⟩ := hshorter shorter hpre hne
    exact (err_eq_truncated_iff hp hs ((desSession_of_idle hp shorter).trans hv)).1 rfl

/-! ### Round trip (R137) -/

theorem serialize_eq (t d : List Byte) :
    serialize t d = be32 (BitVec.ofNat 32 d.length) ++ (t ++ (d ++ (be32 (crc32 (t ++ d)) ++ []))) := by
  simp [serialize]

theorem length_eq_declared {d : List Byte} (h : d.length ≤ Config.maxLen) :
    d.length = (BitVec.ofNat 32 d.length).toNat := by
  rw [Config.maxLen] at h
  rw [BitVec.toNat_ofNat, Nat.mod_eq_of_lt (by omega)]

/-- Settles O38: a serialized chunk is a complete chunk with the right checksum and nothing behind it. -/
theorem roundTripOfSerializeAndDes : Obligations.RoundTripOfSerializeAndDes := by
  intro s t0 t1 t2 t3 d ht hd
  rw [← be32_fromBe32] at ht ⊢
  rw [serialize_eq]
  have hlen := length_eq_declared hd
  exact ⟨(Reads.rightChecksum ht hlen rfl).deserialize_eq, fun hp _ =>
    ⟨_, desSession_rightChecksum hp ht hlen, rfl, rfl, rfl, rfl, rfl⟩⟩

/-! ### One wrong byte (R138) -/

/-- A byte replaced by a different one changes the CRC (R103). -/
theorem crc32_set_ne {bytes : List Byte} {k : Nat} {b : Byte} (hk : k < bytes.length) (hb : bytes[k]? ≠ some b) :
    crc32 (bytes.set k b) ≠ crc32 bytes := by
  have hne : b ≠ bytes[k] := by simpa [hk, eq_comm] using hb
  have hcrc := oneChangedByteChangesTheCrc (bytes.take k) (bytes.drop (k + 1)) b bytes[k] hne
  rwa [← List.set_eq_take_cons_drop _ hk, ← List.set_eq_take_cons_drop _ hk, List.set_getElem_self] at hcrc

theorem exists_be32_set (v : Word) (k : Nat) (b : Byte) : ∃ w, (be32 v).set k b = be32 w := by
  obtain ⟨w, rest, h⟩ := exists_be32_append (bytes := (be32 v).set k b) (by simp)
  have hrest : rest = [] := by simpa using congrArg List.length h
  exact ⟨w, by rw [h, hrest, List.append_nil]⟩

theorem set_be32_append (v : Word) (bytes : List Byte) (k : Nat) (b : Byte) :
    (be32 v ++ bytes).set (4 + k) b = be32 v ++ bytes.set k b := by
  rw [List.set_append_right _ _ (by simp), be32_length, Nat.add_sub_cancel_left]

theorem isChunkType_set {typ typ' : Word} {k : Nat} {b : Byte} (ht : isChunkType (be32 typ) = true)
    (hset : (be32 typ).set k b = be32 typ') (hb : isLetter b = true) : isChunkType (be32 typ') = true := by
  rw [isChunkType_be32, List.all_eq_true] at ht ⊢
  intro x hx
  rcases List.mem_or_eq_of_mem_set (hset ▸ hx) with hmem | rfl
  · exact ht x hmem
  · exact hb

theorem typeFieldError_of_mem {typ : Word} {b : Byte} (hmem : b ∈ be32 typ) (hb : isLetter b = false)
    (tail : List Byte) : typeFieldError 4 (be32 typ ++ tail) = some .invalidChunkType := by
  have hall : ¬ (be32 typ).all isLetter = true := fun h => by simpa [hb] using List.all_eq_true.1 h b hmem
  rw [typeFieldError_of_le (by simp), List.take_left' (be32_length typ), if_neg hall]

section WrongByte
variable {typ : Word} {d : List Byte} {k : Nat} {b : Byte}

theorem reads_wrongTypeByte (ht : isChunkType (be32 typ) = true) (hd : d.length ≤ Config.maxLen) (hk : k < 4)
    (hb : (be32 typ)[k]? ≠ some b) :
    Reads ((serialize (be32 typ) d).set (4 + k) b)
      (.error (if isLetter b = false then .invalidChunkType else .checksumMismatch)) := by
  obtain ⟨typ', htyp'⟩ := exists_be32_set typ k b
  rw [serialize_eq, set_be32_append, List.set_append_left _ _ (by simpa using hk), htyp']
  by_cases hl : isLetter b = false
  · rw [if_pos hl]
    exact .badType (typeFieldError_of_mem (htyp' ▸ List.mem_set (by simpa using hk) b) hl _)
  · rw [if_neg hl]
    refine .wrongChecksum (isChunkType_set ht htyp' (by simpa using hl)) (length_eq_declared hd) ?_
    have hcrc := crc32_set_ne (bytes := be32 typ ++ d) (k := k) (b := b) (by simp; omega)
      (by rwa [List.getElem?_append_left (by simpa using hk)])
    rw [List.set_append_left _ _ (by simpa using hk), htyp'] at hcrc
    exact hcrc.symm

theorem reads_wrongDataByte (ht : isChunkType (be32 typ) = true) (hd : d.length ≤ Config.maxLen) (hk : k < d.length)
    (hb : d[k]? ≠ some b) :
    Reads ((serialize (be32 typ) d).set (4 + (4 + k)) b) (.error .checksumMismatch) := by
  rw [serialize_eq, set_be32_append, set_be32_append, List.set_append_left _ _ hk]
  refine .wrongChecksum ht (by simpa using length_eq_declared hd) ?_
  have hcrc := crc32_set_ne (bytes := be32 typ ++ d) (k := 4 + k) (b := b) (by simpa using hk)
    (by rwa [List.getElem?_append_right (by simp), be32_length, Nat.add_sub_cancel_left])
  rw [set_be32_append] at hcrc
  exact hcrc.symm

theorem reads_wrongChecksumByte (ht : isChunkType (be32 typ) = true) (hd : d.length ≤ Config.maxLen) (hk : k < 4)
    (hb : (be32 (crc32 (be32 typ ++ d)))[k]? ≠ some b) :
    Reads ((serialize (be32 typ) d).set (4 + (4 + (d.length + k))) b) (.error .checksumMismatch) := by
  obtain ⟨c, hc⟩ := exists_be32_set (crc32 (be32 typ ++ d)) k b
  rw [serialize_eq, set_be32_append, set_be32_append, List.set_append_right _ _ (by simp), Nat.add_sub_cancel_left,
    List.set_append_left _ _ (by simpa using hk), hc]
  refine .wrongChecksum ht (length_eq_declared hd) fun hcrc => hb ?_
  rw [← hcrc, ← hc, List.getElem?_set_self (by simpa using hk)]

/-- The three rows of R138, found by the layout map. -/
theorem deserialize_wrongByte (ht : isChunkType (be32 typ) = true) (hd : d.length ≤ Config.maxLen) (hk4 : 4 ≤ k)
    (hk : k < 12 + d.length) (hb : (serialize (be32 typ) d)[k]? ≠ some b) :
    deserialize ((serialize (be32 typ) d).set k b) =
      .error (if k < 8 ∧ isLetter b = false then .invalidChunkType else .checksumMismatch) := by
  have hmap := layoutMapOfASerializedChunk (be32 typ) d k rfl hd
  rcases fieldAt_cases d.length k with
    ⟨hlt, -⟩ | ⟨-, hlt, hf⟩ | ⟨hge, hlt, hf⟩ | ⟨hge, -, hf⟩ | ⟨hge, -⟩
  · omega
  · obtain ⟨j, rfl⟩ := Nat.exists_eq_add_of_le hk4
    simp only [hf, Nat.add_sub_cancel_left] at hmap
    have hj : j < 4 := by omega
    simpa [hlt] using (reads_wrongTypeByte ht hd hj (hmap ▸ hb)).deserialize_eq
  · obtain ⟨j, rfl⟩ : ∃ j, k = 4 + (4 + j) := ⟨k - 8, by omega⟩
    have hj : 4 + (4 + j) - 8 = j := by omega
    simp only [hf, hj] at hmap
    rw [if_neg (by omega)]
    exact (reads_wrongDataByte ht hd (by omega) (hmap ▸ hb)).deserialize_eq
  · obtain ⟨j, rfl⟩ : ∃ j, k = 4 + (4 + (d.length + j)) := ⟨k - 8 - d.length, by omega⟩
    have hj : 4 + (4 + (d.length + j)) - (8 + d.length) = j := by omega
    simp only [hf, hj] at hmap
    rw [if_neg (by omega)]
    exact (reads_wrongChecksumByte ht hd (by omega) (hmap ▸ hb)).deserialize_eq
  · rw [chunkSize, Config.overhead] at hge
    omega

end WrongByte

/-- Settles O39: where `deserialize` gives an error the session raises it. -/
theorem oneWrongByteIsRefused : Obligations.OneWrongByteIsRefused := by
  intro s t0 t1 t2 t3 d k b hp _ ht hd hk4 hk hb
  rw [← be32_fromBe32] at ht hb ⊢
  obtain ⟨v, left, hend, -⟩ := desSession_error hp (deserialize_wrongByte ht hd hk4 hk hb)
  refine ⟨_, left, hend, rfl, ?_⟩
  rw [raise_err]
  split <;> rfl

/-- Where the bytes after the type field hold the declared data and four more, those four get the verdict. -/
theorem desSession_verdict {s : State} {len typ : Word} {tail : List Byte} (hp : s.phase = .idle)
    (ht : isChunkType (be32 typ) = true) (h : len.toNat + 4 ≤ tail.length) :
    ∃ c rest, tail.drop len.toNat = be32 c ++ rest ∧ desSession (be32 len ++ (be32 typ ++ tail)) s =
      .next (verdict c (atChecksum len typ (tail.take len.toNat) s), rest) := by
  obtain ⟨c, rest, hrest⟩ := exists_be32_append (bytes := tail.drop len.toNat) (by simp; omega)
  refine ⟨c, rest, hrest, ?_⟩
  rw [← desSession_checksum hp ht (by simp; omega), ← hrest, List.take_append_drop]

/-- Settles O40: the other length makes the input too short, or moves the checksum field to the front. -/
theorem oneWrongLengthByte : Obligations.OneWrongLengthByte := by
  intro s t0 t1 t2 t3 d k b n hp _ ht hd hk hn
  rw [← be32_fromBe32] at ht hn ⊢
  generalize fromBe32 t0 t1 t2 t3 = typ at ht hn ⊢
  obtain ⟨len, hlen⟩ := exists_be32_set (BitVec.ofNat 32 d.length) k b
  have hset : (serialize (be32 typ) d).set k b = be32 len ++ (be32 typ ++ (d ++ be32 (crc32 (be32 typ ++ d)))) := by
    rw [serialize_eq, List.set_append_left _ _ (by simpa using hk), hlen, List.append_nil]
  rw [hset] at hn ⊢
  rw [declaredLength_be32_append] at hn
  subst hn
  refine ⟨fun hlonger => ?_, fun hshorter => ?_⟩
  · have htrunc := deserialize_typed (len := len) (tail := d ++ be32 (crc32 (be32 typ ++ d))) ht
    rw [if_pos (by simp; omega)] at htrunc
    obtain ⟨v, left, hend, hleft, -⟩ := desSession_error hp htrunc
    exact ⟨_, by rw [hend, hleft rfl], rfl, rfl⟩
  · obtain ⟨c, rest, hrest, hend⟩ := desSession_verdict (s := s) (len := len)
      (tail := d ++ be32 (crc32 (be32 typ ++ d))) hp ht (by simp; omega)
    have hsize : rest.length = d.length - len.toNat := by
      have hlength := congrArg List.length hrest
      simp only [List.length_drop, List.length_append, be32_length] at hlength
      omega
    refine ⟨_, rest, hend, hsize, ?_⟩
    rw [hrest, List.take_left' (be32_length c), List.take_append_of_le_length hshorter.le]
    by_cases hc : c = crc32 (be32 typ ++ d.take len.toNat)
    · rw [if_pos (congrArg be32 hc), verdict_right hc]
      exact ⟨rfl, rfl⟩
    · rw [if_neg fun h => hc (be32_injective h), verdict_wrong hc]
      exact ⟨rfl, rfl⟩

end Sys2Proof.Machine
end

section
/-! PROOFS of the family 44_control: totality (O12), the order of all checks (O13), the phase transitions (O17) and the
control commands NOP, CLR, END and PUT outside an operation (O18 to O21). -/

namespace Sys2Proof.Machine

/-! ### Words with an operand their command has not (R64) -/

theorem decode_of_nonzero_operand {op b : Byte} (hknown : op ≤ 0x08#8) (hop : op ≠ 0x02#8 ∧ op ≠ 0x06#8)
    (hb : b ≠ 0#8) : decode (op ++ b) = .error .nonzeroOperand := by
  have hfields : C16.ofWord (op ++ b) = ⟨op, b⟩ := ofWord_toWord ⟨op, b⟩
  rw [decode_eq_nonzeroOperand_iff, hfields]
  simp [C16.opcodeKnown, C16.operandAllowed, hknown, hop, hb]

/-! ### The control commands, phase by phase (R150 to R153) -/

section Phases
variable {s : State}

theorem exec_end_idle (hp : s.phase = .idle) : exec .endInput s = .next s := by simp [exec, execEnd, hp]

theorem exec_end_error (hp : s.phase = .error) : exec .endInput s = .next s := by simp [exec, execEnd, hp]

theorem exec_end_operation (ho : s.phase.inOperation = true) : exec .endInput s = .next (raise .truncated s) := by
  cases hp : s.phase <;> simp_all [exec, execEnd, Phase.inOperation]

theorem exec_put_idle (b : Byte) (hp : s.phase = .idle) : exec (.put b) s = .next (raise .illegalCommand s) := by
  simp [exec, execPut, hp]

theorem exec_put_error (b : Byte) (hp : s.phase = .error) : exec (.put b) s = .next s := by simp [exec, execPut, hp]

end Phases

/-- Settles O18: the illegal words are those of opcode 0 with an operand. -/
theorem nopChangesNothing : Obligations.NopChangesNothing :=
  ⟨decode_encode .nop, fun _ => rfl, fun _ => decode_of_nonzero_operand (by decide) (by decide)⟩

/-- Settles O19: CLR is `resetRegs`; the words of its opcode with an operand are illegal, which ERROR ignores. -/
theorem clrGivesEveryRegisterItsResetValue : Obligations.ClrGivesEveryRegisterItsResetValue := by
  refine ⟨decode_encode .clr, fun _ => rfl, fun b hb => ?_⟩
  have hd : decode (0x08#8 ++ b) = .error .nonzeroOperand := decode_of_nonzero_operand (by decide) (by decide) hb
  exact ⟨hd, fun _ => execWord_illegal_of_error hd⟩

/-- A word that raises Truncated is END: the other words that raise an error raise another one. -/
theorem WordEffect.end_of_truncated {d : Except IllegalWord Instr} {s t : State} (h : WordEffect d s t)
    (hs : s.phase ≠ .error) (ht : t.phase = .error) (herr : t.err = .truncated) : d = .ok .endInput := by
  cases h
  case truncated _ hd => exact hd
  case put _ _ hput => rcases hput.err_of_error ht with he | he <;> simp [he] at herr
  all_goals simp_all

/-- Settles O20: END phase by phase, and of all effects of a word only END's is Truncated. -/
theorem endOfInputIsTruncatedInsideAnOperation : Obligations.EndOfInputIsTruncatedInsideAnOperation :=
  ⟨decode_encode .endInput, fun _ => exec_end_idle, fun _ => exec_end_error,
    fun _ hidle herror => exec_end_operation ((inOperation_iff _).2 ⟨hidle, herror⟩),
    fun _ _ _ hs h => (word_effect h).end_of_truncated hs⟩

/-- Settles O21: the raise in IDLE records IDLE. -/
theorem putOutsideAnOperation : Obligations.PutOutsideAnOperation := by
  refine fun b s => ⟨decode_encode (.put b), fun hp => ?_, exec_put_error b⟩
  rw [exec_put_idle b hp, raise, hp]

/-! ### Totality (R156, R174) -/

theorem step_nothing {s : State} (h : s.host = []) : step s = .next s := by
  simp [step, fetch, h, hold]

theorem step_total (s : State) : ∃ t, step s = .next t := by
  rcases hhost : s.host with _ | ⟨w | ws, rest⟩
  · exact ⟨s, step_nothing hhost⟩
  · rw [step_command hhost]
    exact execWord_total w _
  · exact ⟨_, step_reset hhost⟩

/-- Settles O12: no event holds the registers, a reset presets them, and every word has a next state. -/
theorem stepIsTotal : Obligations.StepIsTotal :=
  ⟨step_total, execWord_total, fun _ => step_nothing⟩

/-! ### The order of all checks (R156) -/

theorem exec_in_error {i : Instr} {s : State} (hp : s.phase = .error) (hi : i ≠ .clr) : exec i s = .next s := by
  cases i with
  | nop => rfl
  | clr => exact absurd rfl hi
  | endInput => exact exec_end_error hp
  | put b => exact exec_put_error b hp
  | crci | crcb | crcr | ser | des => exact exec_of_error rfl hp

theorem execWord_in_error {w : CmdWord} {s : State} (hp : s.phase = .error) (hw : decode w ≠ .ok .clr) :
    execWord w s = .next s := by
  cases hd : decode w with
  | error k => exact execWord_illegal_of_error hd hp
  | ok i =>
    rw [execWord_of_decode_ok hd]
    exact exec_in_error hp fun hi => hw (by rw [hd, hi])

/-- Outside ERROR the one check of a command that only IDLE carries out is the phase. -/
theorem exec_outside_error {i : Instr} {effect : State → State} {s : State}
    (h : exec i s = .next (onlyInIdle effect s)) (hp : s.phase ≠ .error) :
    exec i s = if s.phase = .idle then exec i s else .next (raise .illegalCommand s) := by
  split
  · rfl
  · next hidle => exact exec_of_operation h hidle hp

/-- Settles O13: first ERROR, where only CLR acts; then the verdict of the decoder; then the command. -/
theorem checksAreInTheOrderOfTheStepFunction : Obligations.ChecksAreInTheOrderOfTheStepFunction := by
  intro w s
  by_cases hp : s.phase = .error
  · rw [if_pos hp]
    split
    · next hclr => exact execWord_of_decode_ok hclr s
    · next hclr => exact execWord_in_error hp hclr
  · rw [if_neg hp]
    cases hd : decode w with
    | error k => exact execWord_illegal_of_ne_error hd hp
    | ok i =>
      rw [execWord_of_decode_ok hd]
      cases i with
      | nop | clr | endInput | put => rfl
      | crci | crcb | crcr | ser | des => exact exec_outside_error rfl hp

/-! ### The phase transitions (R154) -/

/-- The table asks for `pos` below 3 where the machine asks for `pos` other than 3. -/
theorem pos_lt_three_iff (pos : BitVec 2) : pos.toNat < 3 ↔ pos ≠ 3#2 := by bv_omega

theorem onlyInIdle_phase (effect : State → State) (s : State) :
    (onlyInIdle effect s).phase = if s.phase = .idle then (effect s).phase else .error := by
  rcases onlyInIdle_cases effect s with ⟨hp, he⟩ | ⟨hp, he⟩ | ⟨ho, he⟩ <;> rw [he]
  · rw [if_pos hp]
  · simp [hp]
  · rw [if_neg ((inOperation_iff _).1 ho).1]
    rfl

/-- Branch by branch, a PUT inside an operation moves to the phase the table gives. -/
theorem PutEffect.phase_eq {b : Byte} {s t : State} (h : PutEffect b s t) :
    t.phase = nextPhase s (some (.put b)) := by
  cases h
  case badType hp hb => rcases hp with hp | hp <;> simp [nextPhase, hp, hb]
  all_goals simp_all [nextPhase, pos_lt_three_iff]

theorem exec_phase {i : Instr} {s t : State} (h : exec i s = .next t) : t.phase = nextPhase s (some i) := by
  cases i with
  | nop | clr => cases h; rfl
  | endInput => cases h; cases hp : s.phase <;> simp [nextPhase, hp]
  | put b =>
    by_cases ho : s.phase.inOperation = true
    · exact (put_effect ho h).phase_eq
    · cases h
      cases hp : s.phase <;> simp_all [nextPhase, Phase.inOperation]
  | crci | crcb | crcr | ser | des =>
    cases h
    rw [onlyInIdle_phase]
    cases hp : s.phase <;> simp [nextPhase, hp]

theorem execWord_phase {w : CmdWord} {s t : State} (h : execWord w s = .next t) :
    t.phase = nextPhase s (decode w).toOption := by
  cases hd : decode w with
  | error k =>
    rw [execWord_of_decode_error hd] at h
    cases h
    rcases illegalWord_cases s with ⟨hp, he⟩ | ⟨-, he⟩ <;> rw [he]
    · exact hp
    · rfl
  | ok i =>
    rw [execWord_of_decode_ok hd] at h
    exact exec_phase h

/-- Settles O17: the table's phase command by command; a reset event is `resetRegs`. -/
theorem phaseMovesOnlyAsTheTransitionTableSays : Obligations.PhaseMovesOnlyAsTheTransitionTableSays := by
  refine ⟨fun _ _ _ => execWord_phase, fun s t ws rest hhost h => ?_⟩
  rw [step_reset hhost] at h
  cases h
  rfl

end Sys2Proof.Machine
end

section
/-! PROOFS of the family 60_exceptions: what each error records (O41, O43), when IllegalCommand is raised (O42), and how
ERROR is kept and left (O44, O45). -/

namespace Sys2Proof.Machine

/-! ### The legality table outside ERROR (R68) -/

theorem legality_illegalWord {p : Phase} (hp : p ≠ .error) : legality none p = .ill := by
  cases p
  case error => exact absurd rfl hp
  all_goals rfl

/-- The commands that only IDLE carries out are illegal in every other phase (R164). -/
theorem legality_onlyInIdle_eq_ill_iff {i : Instr} {p : Phase} (hp : p ≠ .error)
    (hi : i = .crci ∨ (∃ b, i = .crcb b) ∨ i = .crcr ∨ i = .ser ∨ i = .des) :
    legality (some i) p = .ill ↔ p ≠ .idle := by
  obtain ⟨hidle, -, hoperation⟩ := legality_onlyInIdle hi
  refine ⟨?_, fun h => hoperation p ((inOperation_iff p).2 ⟨h, hp⟩)⟩
  rintro h rfl
  simp [hidle] at h

theorem legality_put_eq_ill_iff (b : Byte) (p : Phase) : legality (some (.put b)) p = .ill ↔ p = .idle := by
  cases p <;> simp [legality]

theorem legality_ne_ill {i : Instr} (hi : i = .nop ∨ i = .endInput ∨ i = .clr) (p : Phase) :
    legality (some i) p ≠ .ill := by
  rcases hi with rfl | rfl | rfl <;> cases p <;> simp [legality]

/-! ### Error entry (R160, R165) -/

/-- The four ways a word with the decoder's verdict `d` enters ERROR, one constructor per error of R160. -/
inductive ErrorEntry (d : Except IllegalWord Instr) (s : State) : State → Prop
  | badType (b : Byte) (hd : d = .ok (.put b)) (hp : s.phase = .sType ∨ s.phase = .dType) (hb : isLetter b = false) :
    ErrorEntry d s (raise .invalidChunkType { s with typ := shiftIn s.typ b })
  | checksumWrong (b : Byte) (hd : d = .ok (.put b)) (hp : s.phase = .dCrc) (hpos : s.pos = 3#2)
    (hne : shiftIn s.stored b ≠ fin s.acc) :
    ErrorEntry d s (raise .checksumMismatch { s with stored := shiftIn s.stored b })
  | truncated (hd : d = .ok .endInput) (ho : s.phase.inOperation = true) : ErrorEntry d s (raise .truncated s)
  | illegal (hd : (∃ k, d = .error k) ∨ ∃ i, d = .ok i ∧ legality (some i) s.phase = .ill) :
    ErrorEntry d s (raise .illegalCommand s)

theorem PutEffect.errorEntry {b : Byte} {s t : State} (h : PutEffect b s t) (ht : t.phase = .error) :
    ErrorEntry (.ok (.put b)) s t := by
  cases h
  case badType hp hb => exact .badType b rfl hp hb
  case checksumWrong hp hpos hne => exact .checksumWrong b rfl hp hpos hne
  all_goals simp_all

theorem WordEffect.errorEntry {d : Except IllegalWord Instr} {s t : State} (h : WordEffect d s t)
    (hs : s.phase ≠ .error) (ht : t.phase = .error) : ErrorEntry d s t := by
  cases h with
  | truncated ho hd => exact .truncated hd ho
  | illegal _ k hd => exact .illegal (.inl ⟨k, hd⟩)
  | putNowhere hp b hd => exact .illegal (.inr ⟨_, hd, (legality_put_eq_ill_iff b _).2 hp⟩)
  | wrongPhase ho hd =>
    obtain ⟨hidle, -⟩ := (inOperation_iff _).1 ho
    rcases hd with rfl | ⟨b, rfl⟩ | rfl | rfl | rfl <;>
      exact .illegal (.inr ⟨_, rfl, (legality_onlyInIdle_eq_ill_iff hs (by simp)).2 hidle⟩)
  | put b hd _ _ hput => exact hd ▸ hput.errorEntry ht
  | nothing | preset | feed | read => exact absurd ht hs
  | clear | startSer | startDes => cases ht

/-- Settles O41: each of the four entries shows its cause and what it leaves in the registers. -/
theorem eachErrorHasItsCauseAndEvidence : Obligations.EachErrorHasItsCauseAndEvidence := by
  refine ⟨⟨rfl, rfl, rfl, rfl, rfl⟩, fun w s t hs h ht => ?_⟩
  cases (word_effect h).errorEntry hs ht with
  | badType b hd hp hb => exact ⟨rfl, b, hd, hp, hb, shiftIn_lowByte s.typ b, rfl⟩
  | checksumWrong b hd hp hpos hne => exact ⟨rfl, b, hd, hp, hpos, hpos, hne, rfl, rfl, rfl⟩
  | truncated hd ho => exact ⟨rfl, hd, ho, rfl, rfl⟩
  | illegal hd => exact ⟨rfl, hd⟩

/-- Settles O43: error entry is `raise`, after `typ` or `stored` has taken the byte. -/
theorem errorEntryKeepsTheEvidence : Obligations.ErrorEntryKeepsTheEvidence := by
  intro w s t hs h ht
  cases (word_effect h).errorEntry hs ht with
  | badType b hd => exact ⟨by simp, .inr (.inl ⟨b, hd, rfl, rfl⟩)⟩
  | checksumWrong b hd => exact ⟨by simp, .inr (.inr ⟨b, hd, rfl, rfl⟩)⟩
  | truncated | illegal => exact ⟨by simp, .inl rfl⟩

/-! ### IllegalCommand (R164) -/

/-- Of the entries of the legality table only ILL raises IllegalCommand. -/
theorem raises_illegalCommand_iff {w : CmdWord} {s t : State} (hs : s.phase ≠ .error) (h : execWord w s = .next t) :
    (t.phase = .error ∧ t.err = .illegalCommand) ↔ legality (decode w).toOption s.phase = .ill := by
  have hallowed := execWord_allowed h
  cases hv : legality (decode w).toOption s.phase <;> rw [hv] at hallowed
  case ign => cases hallowed; simp [hs]
  case ill => cases hallowed; simp
  case trunc => cases hallowed; simp
  case ok =>
    obtain ⟨-, herr⟩ := hallowed
    refine ⟨fun ⟨ht, hill⟩ => ?_, nofun⟩
    rcases herr ht with he | he <;> simp [he] at hill

/-- Settles O42: the rows of the legality table, command by command. -/
theorem illegalCommandIsRaisedExactlyWhenStated : Obligations.IllegalCommandIsRaisedExactlyWhenStated := by
  intro w s t hs h
  rw [raises_illegalCommand_iff hs h]
  cases decode w with
  | error k => exact iff_of_true (legality_illegalWord hs) trivial
  | ok i =>
    cases i with
    | put b => exact legality_put_eq_ill_iff b s.phase
    | crci | crcb | crcr | ser | des => exact legality_onlyInIdle_eq_ill_iff hs (by simp)
    | nop | endInput | clr => exact iff_of_false (legality_ne_ill (by simp) s.phase) id

/-! ### ERROR is kept and left (R166, R167) -/

theorem decode_eq_clr_iff (w : CmdWord) : decode w = .ok .clr ↔ w = 0x0800#16 :=
  ⟨fun h => (encode_of_decode h).symm, fun h => h ▸ decode_encode .clr⟩

theorem ErrorEntry.done_kept {d : Except IllegalWord Instr} {s t : State} (h : ErrorEntry d s t) :
    t.done = s.done := by
  cases h <;> rfl

/-- Settles O44: only CLR acts in ERROR, and error entry keeps `done`, which is 0 inside an operation (R34 clause 6). -/
theorem errorPhaseIgnoresEverythingButClr : Obligations.ErrorPhaseIgnoresEverythingButClr := by
  refine ⟨fun w s hp hw => ?_, fun s hp => ?_, fun w s t hc ho h ht => ?_⟩
  · exact execWord_in_error hp fun hd => hw ((decode_eq_clr_iff w).1 hd)
  · simp [State.errO, hp]
  · obtain ⟨-, -, -, -, hdone, -⟩ := hc
    rw [((word_effect h).errorEntry ((inOperation_iff _).1 ho).2 ht).done_kept, hdone ho]

/-- Settles O45: no event and every word but CLR's stay in ERROR; a reset event and CLR are `resetRegs`. -/
theorem errorIsLeftOnlyByClrOrReset : Obligations.ErrorIsLeftOnlyByClrOrReset := by
  intro s t hs h ht
  rcases step_effect h with ⟨-, rfl⟩ | ⟨ws, rest, hhost, rfl⟩ | ⟨w, rest, hhost, hw⟩
  · exact absurd hs ht
  · exact ⟨⟨rest, .inr ⟨ws, hhost⟩⟩, atResetValues_resetRegs _⟩
  · by_cases hclr : decode w = .ok .clr
    · rw [execWord_of_decode_ok hclr] at hw
      cases hw
      exact ⟨⟨rest, .inl ((decode_eq_clr_iff w).1 hclr ▸ hhost)⟩, atResetValues_resetRegs _⟩
    · rw [execWord_in_error (s := { s with host := rest }) hs hclr] at hw
      cases hw
      exact absurd hs ht

end Sys2Proof.Machine
end
